-- ==== Sys2Proof/Word.lean ====
section
/-! DEFINITION. The widths of the block's words (00_scope.md R17, 20_memory.md R75). -/

namespace Sys2Proof

/-- A 32-bit register or operation word: `PHASE`, `AMP`, `ELAPSED`, `LAST_CTX`, a table entry. -/
abbrev Word := BitVec 32

/-- An 8-bit register or field: `TRIG`, a state tag, a fault code, `ctx`, `imm8`. -/
abbrev Byte := BitVec 8

/-- One 16-bit sample of the sink (R40). -/
abbrev Sample := BitVec 16

end Sys2Proof
end

