-- ==== Sys2Proof/Config.lean ====
section
/-! DEFINITION. The configuration record `Cfg` (00_scope.md R7): what the source fixes is a constant, what it leaves OPEN is a
field, and what no rule decides is an opaque constant. The checks R9 to R15 are in Machine/ConfigCheck.lean. -/

namespace Sys2Proof

/-! ### Values the source fixes (R7, ground "source") -/

/-- `SAMPLE_RATE` in Hz (R7). -/
def Config.sampleRate : Nat := 40000
/-- `TICK_PERIOD_US` in microseconds (R7): "not read by any rule". -/
def Config.tickPeriodUs : Nat := 25
/-- `TABLE_SIZE` (R7). -/
def Config.tableSize : Nat := 256
/-- `INDEX_SHIFT` (R7). -/
def Config.indexShift : Nat := 24
/-- `PHASE_BITS` (R7). -/
def Config.phaseBits : Nat := 32
/-- `FX_WIDTH` (R7): the storage width of fix15 and fix28. -/
def Config.fxWidth : Nat := 32
/-- `FX_WIDE` (R7): the width of the intermediate product and dividend, which never overflow it (R122, R123, R129). -/
def Config.fxWide : Nat := 64
/-- `SAMPLE_BITS` (R7). -/
def Config.sampleBits : Nat := 16
/-- `VOICE_COUNT` (R7): voice 1 is inert. -/
def Config.voiceCount : Nat := 2

/-! ### Effects (10_state.md R45) -/

/-- A tone effect: an effect with a sweep law, tags 1, 2, 5, 6, 7 (R14, R45). -/
inductive Tone where
  | descend    -- tag 1, linear, descending
  | parabolaA  -- tag 2, quadratic
  | linearB    -- tag 5, linear
  | linearC    -- tag 6, linear
  | parabolaB  -- tag 7, quadratic
  deriving DecidableEq, Repr

/-- One of the six non-IDLE sound states (R45): a tone, or the silent timed pause of tag 4. -/
inductive Effect where
  | tone (t : Tone)
  | silent
  deriving DecidableEq, Repr

/-- A sweep law `a*x^2 + b*x + c` with exact rational coefficients (R14, R22, 42_dds_engine.md R181). -/
structure Law where
  a : Rat
  b : Rat
  c : Rat
  deriving DecidableEq, Repr

/-- `LAW[2]`, the one law the spec fixes: (-0.00099853142804, 1.99456285608, 1010), each literal the rational it spells
(R7, R22, R45). -/
def Config.law2 : Law :=
  { a := mkRat (-99853142804) (10 ^ 14), b := mkRat 199456285608 (10 ^ 11), c := mkRat 1010 1 }

/-- `LAW[e]` for the tags whose law is OPEN (R7): 1, 5, 6, 7. -/
structure OpenLaws where
  descend   : Law
  linearB   : Law
  linearC   : Law
  parabolaB : Law
  deriving DecidableEq, Repr

/-- `DURATION[e]` in samples, e in {1, 2, 4, 5, 6, 7} (R7). -/
structure Durations where
  descend   : Nat
  parabolaA : Nat
  silent    : Nat
  linearB   : Nat
  linearC   : Nat
  parabolaB : Nat
  deriving DecidableEq, Repr

/-! ### Selectable behaviours -/

/-- `FX_OVERFLOW_POLICY` (R7, R19). -/
inductive OverflowPolicy where
  | fault
  | wrap
  deriving DecidableEq, Repr

/-- `TO_FLOAT_ROUNDING` (R7, 40_fixed_point.md R127). -/
inductive ToFloatRounding where
  | exact
  | binary32Rne
  deriving DecidableEq, Repr

/-- `PHASE_INC_FN` as plain data (R7, R183): the reference function, or some other function from rationals to u32, named by a
number and given by the opaque `Config.deployedPhaseInc` (log entry 7). -/
inductive PhaseIncFn where
  | exactFloor
  | deployed (id : Nat)
  deriving DecidableEq, Repr

/-- `SINE_TABLE_FN` as plain data (R7, 41_oscillator_table.md R165): the reference function on the exact real sine, at the
configuration's own peak (R160, Machine/Sine.lean), or the s32 table that the deployment uses, one entry for each index. -/
inductive SineTableFn where
  | exactSine
  | deployed (table : Vector Word 256)
  deriving DecidableEq, Repr

/-- FREE VALUE (log entry 8). The rational that FAULT_INFO holds where `peak * sin(2*pi*i/256)` is out of range and no rational.
Only a refused configuration shows it. Nothing constrains it. -/
opaque Config.sineInfo : Rat → Nat → Rat

/-- FREE VALUE (log entry 7). The deployed phase-increment functions, one for each number: nothing constrains them. -/
opaque Config.deployedPhaseInc : Nat → Rat → Word

/-- FREE VALUE (log entry 6). Draw number `n` of a trigger collision (43_sound_state_machine.md R218): true keeps the old
value. Nothing constrains it, so a claim about a collision holds for both outcomes. -/
opaque Config.collisionKeepsOld : Nat → Bool

/-! ### The record -/

/-- The configuration record (R7). Its fields are those the source leaves OPEN. -/
structure Cfg where
  peakAmplitude   : Rat
  dcOffset        : Int
  maxAmplitude    : Int
  attackTime      : Nat
  decayTime       : Nat
  durations       : Durations
  laws            : OpenLaws
  sineTable       : SineTableFn
  phaseIncFn      : PhaseIncFn
  overflowPolicy  : OverflowPolicy
  toFloatRounding : ToFloatRounding
  quietTickWrites : Bool
  contextIds      : List Byte
  hitEffect       : Effect
  deriving DecidableEq, Repr

/-- `LAW[e]` (R7, R14): tag 2's is fixed, the others are fields. -/
def Cfg.law (c : Cfg) : Tone → Law
  | .descend   => c.laws.descend
  | .parabolaA => Config.law2
  | .linearB   => c.laws.linearB
  | .linearC   => c.laws.linearC
  | .parabolaB => c.laws.parabolaB

/-- `DURATION[e]` (R7). -/
def Cfg.duration (c : Cfg) : Effect → Nat
  | .tone .descend   => c.durations.descend
  | .tone .parabolaA => c.durations.parabolaA
  | .silent          => c.durations.silent
  | .tone .linearB   => c.durations.linearB
  | .tone .linearC   => c.durations.linearC
  | .tone .parabolaB => c.durations.parabolaB

/-! ### The reference table (41_oscillator_table.md R166) -/

/-- Entries 0 to 63 of the reference table, row by row as R166 prints them. -/
def refTable0 : List Int :=
  [0, 1646129, 3291268, 4934423, 6574607, 8210830, 9842107, 11467456] ++
  [13085897, 14696455, 16298161, 17890050, 19471162, 21040546, 22597256, 24140354] ++
  [25668910, 27182005, 28678726, 30158172, 31619452, 33061686, 34484005, 35885551] ++
  [37265482, 38622965, 39957183, 41267333, 42552624, 43812284, 45045552, 46251687] ++
  [47429962, 48579666, 49700108, 50790613, 51850523, 52879200, 53876025, 54840397] ++
  [55771735, 56669478, 57533086, 58362038, 59155835, 59913998, 60636072, 61321621] ++
  [61970232, 62581514, 63155100, 63690643, 64187821, 64646335, 65065909, 65446289] ++
  [65787247, 66088577, 66350098, 66571652, 66753106, 66894350, 66995299, 67055893]

/-- Entries 64 to 127 of the reference table, row by row as R166 prints them. -/
def refTable1 : List Int :=
  [67076096, 67055893, 66995299, 66894350, 66753106, 66571652, 66350098, 66088577] ++
  [65787247, 65446289, 65065909, 64646335, 64187821, 63690643, 63155100, 62581514] ++
  [61970232, 61321621, 60636072, 59913998, 59155835, 58362038, 57533086, 56669478] ++
  [55771735, 54840397, 53876025, 52879200, 51850523, 50790613, 49700108, 48579666] ++
  [47429962, 46251687, 45045552, 43812284, 42552624, 41267333, 39957183, 38622965] ++
  [37265482, 35885551, 34484005, 33061686, 31619452, 30158172, 28678726, 27182005] ++
  [25668910, 24140354, 22597256, 21040546, 19471162, 17890050, 16298161, 14696455] ++
  [13085897, 11467456, 9842107, 8210830, 6574607, 4934423, 3291268, 1646129]

/-- Entries 128 to 191 of the reference table, row by row as R166 prints them. -/
def refTable2 : List Int :=
  [0, -1646129, -3291268, -4934423, -6574607, -8210830, -9842107, -11467456] ++
  [-13085897, -14696455, -16298161, -17890050, -19471162, -21040546, -22597256, -24140354] ++
  [-25668910, -27182005, -28678726, -30158172, -31619452, -33061686, -34484005, -35885551] ++
  [-37265482, -38622965, -39957183, -41267333, -42552624, -43812284, -45045552, -46251687] ++
  [-47429962, -48579666, -49700108, -50790613, -51850523, -52879200, -53876025, -54840397] ++
  [-55771735, -56669478, -57533086, -58362038, -59155835, -59913998, -60636072, -61321621] ++
  [-61970232, -62581514, -63155100, -63690643, -64187821, -64646335, -65065909, -65446289] ++
  [-65787247, -66088577, -66350098, -66571652, -66753106, -66894350, -66995299, -67055893]

/-- Entries 192 to 255 of the reference table, row by row as R166 prints them. -/
def refTable3 : List Int :=
  [-67076096, -67055893, -66995299, -66894350, -66753106, -66571652, -66350098, -66088577] ++
  [-65787247, -65446289, -65065909, -64646335, -64187821, -63690643, -63155100, -62581514] ++
  [-61970232, -61321621, -60636072, -59913998, -59155835, -58362038, -57533086, -56669478] ++
  [-55771735, -54840397, -53876025, -52879200, -51850523, -50790613, -49700108, -48579666] ++
  [-47429962, -46251687, -45045552, -43812284, -42552624, -41267333, -39957183, -38622965] ++
  [-37265482, -35885551, -34484005, -33061686, -31619452, -30158172, -28678726, -27182005] ++
  [-25668910, -24140354, -22597256, -21040546, -19471162, -17890050, -16298161, -14696455] ++
  [-13085897, -11467456, -9842107, -8210830, -6574607, -4934423, -3291268, -1646129]

/-- The 256 entries of R166, raw fix15: the spec's print of them, which no rule of the step reads. -/
def refTable : List Int := refTable0 ++ refTable1 ++ refTable2 ++ refTable3

/-- The placeholder laws of the spec's test configuration TC (92_eei_decisions.md D43). -/
def Config.testLaws : OpenLaws :=
  { descend   := { a := mkRat 0 1, b := mkRat (-1) 2, c := mkRat 2000 1 }
    linearB   := { a := mkRat 0 1, b := mkRat 1 4, c := mkRat 500 1 }
    linearC   := { a := mkRat 0 1, b := mkRat 1 1, c := mkRat 1000 1 }
    parabolaB := { a := mkRat (-1) 1000, b := mkRat 2 1, c := mkRat 800 1 } }

/-- The reference configuration RC (R7, D43). RC fixes neither the durations nor the laws of tags 1, 5, 6, 7, nor
`HIT_EFFECT`: here every duration is 2000, the laws are TC's placeholders and the hit effect is tag 1
(DESIGN CHOICE, log entry 2). -/
def Cfg.reference : Cfg :=
  { peakAmplitude   := mkRat 2047 1
    dcOffset        := 2048
    maxAmplitude    := 32768
    attackTime      := 256
    decayTime       := 256
    durations       := { descend := 2000, parabolaA := 2000, silent := 2000,
                         linearB := 2000, linearC := 2000, parabolaB := 2000 }
    laws            := Config.testLaws
    sineTable       := .exactSine
    phaseIncFn      := .exactFloor
    overflowPolicy  := .fault
    toFloatRounding := .exact
    quietTickWrites := true
    contextIds      := [0, 1]
    hitEffect       := .tone .descend }

/-- The spec's test configuration TC (D43): RC's output constants, ATTACK = DECAY = 2, and its own durations and laws. -/
def Cfg.test : Cfg :=
  { Cfg.reference with
    attackTime := 2
    decayTime  := 2
    durations  := { descend := 6, parabolaA := 8, silent := 6, linearB := 6, linearC := 6, parabolaB := 8 } }

end Sys2Proof
end

