-- ==== Sys2Proof/Syntax.lean ====
section
/-! DEFINITION. The operations of the block, one constructor for each row of the opcode table (30_encoding.md R94).
The operand ports and the issuing agent come with the program element (R92, R100), not with the operation. -/

namespace Sys2Proof

/-- The 17 operations of `OPMAP` (R94). `ctx` and `imm8` are the numbers 0 to 255 that the listing syntax writes (R102);
WellFormed.lean checks the bound. -/
inductive Instr where
  | buildTable
  | startTimer
  | tick (ctx : Nat)
  | writeTrigger (imm8 : Nat)
  | readDiag
  | mul15
  | div15
  | fromInt15
  | toInt15
  | fromFloat15
  | toFloat15
  | mul28
  | div28
  | fromInt28
  | toInt28
  | fromFloat28
  | toFloat28
  deriving DecidableEq, Repr

end Sys2Proof
end

