-- ==== Sys2Proof/WellFormed.lean ====
section
/-! DEFINITION. Which terms of `Instr` the encoding can spell (30_encoding.md R91, R95, R102). -/

namespace Sys2Proof

/-- TICK's `ctx` and WRITE_TRIGGER's `imm8` are 8-bit fields (R91): a number 0 to 255 (R102). No other operation has a field. -/
def Instr.wellFormed : Instr → Bool
  | .tick ctx          => decide (ctx < 256)
  | .writeTrigger imm8 => decide (imm8 < 256)
  | .buildTable  => true
  | .startTimer  => true
  | .readDiag    => true
  | .mul15       => true
  | .div15       => true
  | .fromInt15   => true
  | .toInt15     => true
  | .fromFloat15 => true
  | .toFloat15   => true
  | .mul28       => true
  | .div28       => true
  | .fromInt28   => true
  | .toInt28     => true
  | .fromFloat28 => true
  | .toFloat28   => true

/-- The check as a proposition. -/
abbrev Instr.WellFormed (i : Instr) : Prop := i.wellFormed = true

end Sys2Proof
end

