-- ==== Sys2Proof/Decode.lean ====
section
/-! DEFINITION. Decoding an operation word, rejecting by name (30_encoding.md R90 to R98), and the encoder after it.
The unit is the 32-bit word (R90): the block reads no bytes and has no byte order (20_memory.md R73). -/

namespace Sys2Proof

/-- Why a word is illegal: cases (a) to (d) of R96. -/
inductive IllegalWord where
  | reservedOpcode   -- (a) `opc` is not in OPMAP
  | reservedField    -- (b) `rsv` is not 0
  | ctxNotZero       -- (c) `ctx` is not 0 in an operation other than TICK
  | imm8NotZero      -- (d) `imm8` is not 0 in an operation other than WRITE_TRIGGER
  deriving DecidableEq, Repr

/-- `w[lo+7:lo]` as an unsigned number (R17, R91). -/
def byteField (w : Word) (lo : Nat) : Nat := w.toNat / 2 ^ lo % 256

/-- `OPMAP` (R94): the operation of an operation code, with the fields `ctx` and `imm8` where it has them. -/
def opmap (opc ctx imm8 : Nat) : Option Instr :=
  match opc with
  | 0x01 => some .buildTable
  | 0x02 => some .startTimer
  | 0x03 => some (.tick ctx)
  | 0x04 => some (.writeTrigger imm8)
  | 0x05 => some .readDiag
  | 0x10 => some .mul15
  | 0x11 => some .div15
  | 0x12 => some .fromInt15
  | 0x13 => some .toInt15
  | 0x14 => some .fromFloat15
  | 0x15 => some .toFloat15
  | 0x20 => some .mul28
  | 0x21 => some .div28
  | 0x22 => some .fromInt28
  | 0x23 => some .toInt28
  | 0x24 => some .fromFloat28
  | 0x25 => some .toFloat28
  | _    => none

/-- `decode(w)` (R93), in the order of its lines. It reads no state (R98). -/
def decode (w : Word) : Except IllegalWord Instr :=
  match opmap (byteField w 24) (byteField w 8) (byteField w 0) with
  | none => .error .reservedOpcode
  | some i =>
    if byteField w 16 ≠ 0 then .error .reservedField
    else if byteField w 24 ≠ 0x03 ∧ byteField w 8 ≠ 0 then .error .ctxNotZero
    else if byteField w 24 ≠ 0x04 ∧ byteField w 0 ≠ 0 then .error .imm8NotZero
    else .ok i

/-! ### The encoder (R91, R94, R102: "the assembler emits the word of rule R94") -/

/-- The operation code of an operation (R94). -/
def Instr.opcode : Instr → Nat
  | .buildTable     => 0x01
  | .startTimer     => 0x02
  | .tick _         => 0x03
  | .writeTrigger _ => 0x04
  | .readDiag       => 0x05
  | .mul15          => 0x10
  | .div15          => 0x11
  | .fromInt15      => 0x12
  | .toInt15        => 0x13
  | .fromFloat15    => 0x14
  | .toFloat15      => 0x15
  | .mul28          => 0x20
  | .div28          => 0x21
  | .fromInt28      => 0x22
  | .toInt28        => 0x23
  | .fromFloat28    => 0x24
  | .toFloat28      => 0x25

/-- The field `ctx`, bits 15:8 (R91): 0 in every operation but TICK. -/
def Instr.ctxField : Instr → Nat
  | .tick ctx => ctx
  | _         => 0

/-- The field `imm8`, bits 7:0 (R91): 0 in every operation but WRITE_TRIGGER. -/
def Instr.imm8Field : Instr → Nat
  | .writeTrigger v => v
  | _               => 0

/-- The operation word of an operation (R91, R94). -/
def encode (i : Instr) : Word :=
  BitVec.ofNat 32 (i.opcode * 2 ^ 24 + i.ctxField * 2 ^ 8 + i.imm8Field)

/-- The opcode table's `match` column (R94). -/
def Instr.matchWord (i : Instr) : Word := BitVec.ofNat 32 (i.opcode * 2 ^ 24)

/-- The opcode table's `mask` column (R94). -/
def Instr.maskWord : Instr → Word
  | .tick _         => 0xFFFF00FF
  | .writeTrigger _ => 0xFFFFFF00
  | _               => 0xFFFFFFFF

/-- The host's reading of one opcode-table row: the instruction whose bits, numbered from the least significant bit of its one
32-bit word, are `w`. Bits from `nbits` up are 0, and a number wider than the word is no instruction. -/
def decodeTableWord (nbits w : Nat) : Option Instr :=
  if w % 2 ^ nbits < 2 ^ 32 then
    match decode (BitVec.ofNat 32 (w % 2 ^ nbits)) with
    | .ok i => some i
    | .error _ => none
  else none

end Sys2Proof
end

