-- ==== Sys2Proof/Machine/Issue.lean ====
section
/-! DEFINITION. Program elements: who issues which word with which operand ports (00_scope.md R6, 30_encoding.md R92, R100). -/

namespace Sys2Proof

/-- The two issuing agents (R100). The engine performs TICK and the sink only receives: neither issues. -/
inductive Agent where
  | timer
  | host
  deriving DecidableEq, Repr

/-- The operand ports (R92): `A` and `B` are s32, `F` is the host's floating-point value, read exactly as a rational (R22). -/
structure Ports where
  a : Word
  b : Word
  f : Rat
  deriving DecidableEq, Repr

/-- A program element: the triple (agent, word, ports) of R6 and R100. -/
structure Issue where
  agent : Agent
  word  : Word
  ports : Ports
  deriving DecidableEq, Repr

/-- The agent column of R94: only the timer issues TICK, only the host issues the other sixteen (R101). -/
def Instr.agent : Instr → Agent
  | .tick _         => .timer
  | .buildTable     => .host
  | .startTimer     => .host
  | .writeTrigger _ => .host
  | .readDiag       => .host
  | .mul15          => .host
  | .div15          => .host
  | .fromInt15      => .host
  | .toInt15        => .host
  | .fromFloat15    => .host
  | .toFloat15      => .host
  | .mul28          => .host
  | .div28          => .host
  | .fromInt28      => .host
  | .toInt28        => .host
  | .fromFloat28    => .host
  | .toFloat28      => .host

end Sys2Proof
end

