-- ==== Sys2Proof/Machine/State.lean ====
section
/-! DEFINITION. The block's state (10_state.md R30 to R50), plain data, and reset (70_reset_and_hazards.md R290). -/

namespace Sys2Proof.Machine

/-! ### The kinds of register contents -/

/-- The seven legal values of `STATE[v]` (R32, R45): "It never holds any other value" (log entry 10). -/
inductive SoundState where
  | idle
  | playing (e : Effect)
  deriving DecidableEq, Repr

/-- `LIFECYCLE` (R39): "the value 3 is never written" (log entry 10). -/
inductive Lifecycle where
  | uninit
  | ready
  | running
  deriving DecidableEq, Repr

/-- The codes of `FAULT` (60_exceptions.md R261): "Codes 11 to 255 are never written" (log entry 10). -/
inductive FaultCode where
  | none
  | illegalOp
  | fxOverflow
  | fxDivZero
  | fxFloatRange
  | freqRange
  | tableRebuild
  | notReady
  | timerNotArmed
  | timerRearm
  | wrongAgent
  deriving DecidableEq, Repr

/-- A value that `respond` returns or a fault reports: "an integer or rational" (R41, R92). -/
inductive Value where
  | int (v : Int)
  | rat (q : Rat)
  deriving DecidableEq, Repr

/-- `FAULT_INFO` (R41, R261): "the operation word that faulted and one value". -/
structure FaultInfo where
  word : Word
  info : Value
  deriving DecidableEq, Repr

/-- One voice register set (R30, R31): `STATE[v]`, `PHASE[v]`, `AMP[v]`, `ELAPSED[v]`. `amp` is read as signed (R34). -/
structure Voice where
  state   : SoundState
  phase   : Word
  amp     : Word
  elapsed : Word
  deriving DecidableEq, Repr

/-- The table index space (20_memory.md R70): (index, 32-bit entry) pairs in one canonical form, indexes strictly rising. An
index not listed is unwritten and "holds no value" (R42). The cell is the spec's word, not a byte (log entry 9). -/
abbrev Memory := List (Nat × Word)

/-! ### Stops -/

/-- Why a step answers a fault and no state. -/
inductive Fault where
  /-- Raised by a step from a state with `FAULT != NONE`: "no operation has a step" (R41, R262). Safe: nothing can be proved
  about what follows. -/
  | faulted (code : FaultCode)
  /-- Raised by TICK's lookup of an entry that holds no value (R42, U26). No run reaches it (R81). Safe. -/
  | unwrittenEntry
  deriving DecidableEq, Repr

/-- Why a step is refused. -/
inductive Refusal where
  /-- Raised by an arm of `exec` whose instruction has no meaning yet. Safe. -/
  | notModelled (mnemonic : String)
  /-- Raised by a step under a configuration that fails a check of R9 to R15: it "has no runs" (R21). Safe. -/
  | configRefused
  /-- Raised by a step when no program element is left to perform: the run has ended (R306). Safe. -/
  | noOperation
  deriving DecidableEq, Repr

/-- A `raise <Fault>(info)` of the spec's pseudocode (R20): the code and the value of R261's last column. -/
structure Raise where
  code : FaultCode
  info : Value
  deriving DecidableEq, Repr

/-- How the body of an operation can end early: by the spec's `raise`, or stuck. -/
inductive Stop where
  | raised (r : Raise)
  | stuck (f : Fault)
  deriving DecidableEq, Repr

/-! ### The state record -/

/-- The state. The first eleven fields are R30's record; `cfg` is the read-only parameter `Cfg` (R30, log entry 1); the last four
are the model's own, its interface to the agents (log entries 4 to 6). -/
structure State where
  voice0    : Voice
  voice1    : Voice
  trig      : Byte
  lastCtx   : Word
  lifecycle : Lifecycle
  table     : Memory
  fault     : FaultCode
  faultInfo : Option FaultInfo
  out       : List Sample
  cfg       : Cfg
  op        : Issue
  pending   : List Issue
  responses : List Value
  draws     : Nat
  deriving DecidableEq, Repr

/-- A voice at reset: "zeroed/idle" (R50). -/
def Voice.reset : Voice := { state := .idle, phase := 0, amp := 0, elapsed := 0 }

/-- What the model's `op` field holds before any program element has been taken (DESIGN CHOICE, log entry 4). -/
def noIssue : Issue := { agent := .host, word := 0, ports := { a := 0, b := 0, f := mkRat 0 1 } }

/-- Power-on reset under configuration `c` (R50, R290): "`Cfg` is not state and reset does not change it". -/
def State.resetWith (c : Cfg) : State :=
  { voice0 := Voice.reset, voice1 := Voice.reset, trig := 0, lastCtx := 0, lifecycle := .uninit, table := [],
    fault := .none, faultInfo := Option.none, out := [], cfg := c,
    op := noIssue, pending := [], responses := [], draws := 0 }

/-- The machine right after reset, under the completed reference configuration (log entry 2). -/
def State.reset : State := State.resetWith Cfg.reference

end Sys2Proof.Machine
end

