-- ==== Sys2Proof/Machine/Ops.lean ====
section
/-! DEFINITION. The operations over registers, memory and the fault registers that the meanings share (00_scope.md R19, R20). -/

namespace Sys2Proof.Machine

/-! ### Memory (20_memory.md R71, R72) -/

/-- The entry at index `i`, if one has been written (R71). -/
def Memory.read : Memory → Nat → Option Word
  | [], _ => none
  | (j, v) :: rest, i => if i = j then some v else Memory.read rest i

/-- `TableWrite(i, v)` (R72). It keeps the indexes strictly rising. -/
def Memory.write : Memory → Nat → Word → Memory
  | [], i, v => [(i, v)]
  | (j, w) :: rest, i, v =>
    if i < j then (i, v) :: (j, w) :: rest
    else if i = j then (i, v) :: rest
    else (j, w) :: Memory.write rest i v

/-- Every index listed is at least `lo` and below `TABLE_SIZE`, and the indexes rise strictly. -/
def Memory.wfFrom : Nat → Memory → Bool
  | _, [] => true
  | lo, (j, _) :: rest => decide (lo ≤ j) && decide (j < Config.tableSize) && Memory.wfFrom (j + 1) rest

/-- The canonical form: strictly rising indexes of the index space 0 to 255 (R70). -/
def Memory.wf (m : Memory) : Bool := Memory.wfFrom 0 m

/-! ### Registers -/

/-- What a register of width 32 holds of an integer: `v mod 2^32` (R17). -/
def toReg (v : Int) : Word := BitVec.ofInt 32 v

/-- `Emit(s)` (R20, R40): append one sample to the sink log. -/
def State.emit (x : Sample) (s : State) : State := { s with out := s.out ++ [x] }

/-- `respond v` (R20): return `v` to the issuing agent; no register of the block changes (R43). -/
def State.respond (v : Value) (s : State) : State := { s with responses := s.responses ++ [v] }

/-- Write voice 0's registers. -/
def State.setVoice0 (v : Voice) (s : State) : State := { s with voice0 := v }

/-- Write `TRIG`. -/
def State.setTrig (t : Byte) (s : State) : State := { s with trig := t }

/-- Write `LIFECYCLE`. -/
def State.setLifecycle (l : Lifecycle) (s : State) : State := { s with lifecycle := l }

/-- Write the oscillator table. -/
def State.setTable (m : Memory) (s : State) : State := { s with table := m }

/-- Write `LAST_CTX` (R38). -/
def State.setLastCtx (c : Word) (s : State) : State := { s with lastCtx := c }

/-- Take the next program element: it becomes the one being performed. -/
def State.accept (e : Issue) (rest : List Issue) (s : State) : State := { s with op := e, pending := rest }

/-! ### Faults: the one exception mechanism (60_exceptions.md R262, R268) -/

/-- `raise F(info)` (R20, R262): "`FAULT <- code(F)` and `FAULT_INFO <- (word, info)`. Every other state element, `OUT` included,
keeps the value it had before the operation began". Nothing is saved and control goes nowhere: no vector, no return (R268,
R269). -/
def State.raise (r : Raise) (s : State) : State :=
  { s with fault := r.code, faultInfo := some { word := s.op.word, info := r.info } }

/-- A fault of a pure function, as the end of an operation's body. -/
def orRaise {α : Type} : Except Raise α → Except Stop α
  | .ok v => .ok v
  | .error r => .error (.raised r)

/-- The end of an operation that began in state `s` (R20, R21): its new state; or `s` with the fault registers written, whatever
the body had done so far; or stuck. -/
def State.conclude (s : State) : Except Stop State → Host.Outcome State Fault Refusal
  | .ok t => .next t
  | .error (.raised r) => .next (s.raise r)
  | .error (.stuck f) => .fault f

/-- The end of an operation that only responds (40_fixed_point.md R121): "each does `respond fn(ports)` and writes no state". -/
def State.respondWith (s : State) (r : Except Raise Value) : Host.Outcome State Fault Refusal :=
  s.conclude (orRaise (r.map fun v => s.respond v))

end Sys2Proof.Machine
end

