-- ==== Sys2Proof/Machine/Operands.lean ====
section
/-! DEFINITION. Every operand form the operations have (30_encoding.md R92, R95): the three ports and the two word fields. -/

namespace Sys2Proof.Machine

/-- Port `A` of the program element being performed, as s32 (R92). -/
def State.portA (s : State) : Int := s.op.ports.a.toInt

/-- Port `B`, as s32 (R92). -/
def State.portB (s : State) : Int := s.op.ports.b.toInt

/-- Port `F`, a rational (R92). -/
def State.portF (s : State) : Rat := s.op.ports.f

/-- `zext_32(ctx)`: the 8-bit field, zero-extended (R95). -/
def zextCtx (ctx : Nat) : Word := (BitVec.ofNat 8 ctx).zeroExtend 32

/-- `imm8`: "an 8-bit unsigned number written to `TRIG` unchanged" (R95). -/
def trigImm (imm8 : Nat) : Byte := BitVec.ofNat 8 imm8

end Sys2Proof.Machine
end

