-- ==== Sys2Proof/Machine/Flags.lean ====
section
/-! DEFINITION. The block's flags are `TRIG`, `LIFECYCLE` and `FAULT` (10_state.md R48): their encodings and the rule by which a
trigger write sets `TRIG`. -/

namespace Sys2Proof.Machine

/-- The tag of an effect (R45). -/
def effectTag : Effect → Byte
  | .tone .descend   => 1
  | .tone .parabolaA => 2
  | .silent          => 4
  | .tone .linearB   => 5
  | .tone .linearC   => 6
  | .tone .parabolaB => 7

/-- The 8-bit value of `STATE[v]` (R32, R45): IDLE is 0. -/
def SoundState.tag : SoundState → Byte
  | .idle => 0
  | .playing e => effectTag e

/-- The effect that a value of `TRIG` names, if it names one (R46): 0 is NONE, and 3 and 8 to 255 name no effect. -/
def effectOfTrig (t : Byte) : Option Effect :=
  match t.toNat with
  | 1 => some (.tone .descend)
  | 2 => some (.tone .parabolaA)
  | 4 => some .silent
  | 5 => some (.tone .linearB)
  | 6 => some (.tone .linearC)
  | 7 => some (.tone .parabolaB)
  | _ => none

/-- The 2-bit value of `LIFECYCLE` (R39). -/
def Lifecycle.code : Lifecycle → BitVec 2
  | .uninit  => 0
  | .ready   => 1
  | .running => 2

/-- `LIFECYCLE` as the info value of a lifecycle fault (R261). -/
def Lifecycle.info (l : Lifecycle) : Value := .int l.code.toNat

/-- The 8-bit value of `FAULT` (R41, R261). -/
def FaultCode.code : FaultCode → Byte
  | .none          => 0
  | .illegalOp     => 1
  | .fxOverflow    => 2
  | .fxDivZero     => 3
  | .fxFloatRange  => 4
  | .freqRange     => 5
  | .tableRebuild  => 6
  | .notReady      => 7
  | .timerNotArmed => 8
  | .timerRearm    => 9
  | .wrongAgent    => 10

/-- WRITE_TRIGGER meets a different non-zero value that no tick has consumed (43_sound_state_machine.md R218). -/
def collides (old v : Byte) : Bool := decide (old ≠ 0 ∧ v ≠ 0 ∧ old ≠ v)

/-- What WRITE_TRIGGER does to `TRIG` (R217): store, or on a collision `draw t in {TRIG, v}`, a free value (log entry 6). -/
def State.writeTrig (v : Byte) (s : State) : State :=
  if collides s.trig v then
    { s with trig := if Config.collisionKeepsOld s.draws then s.trig else v, draws := s.draws + 1 }
  else s.setTrig v

end Sys2Proof.Machine
end

