-- ==== Sys2Proof/Machine/FixedPoint.lean ====
section
/-! DEFINITION. The fixed-point unit (40_fixed_point.md): twelve pure functions on mathematical integers and rationals, and the
twelve operations that respond with them. -/

namespace Sys2Proof.Machine

/-! ### Rounding and narrowing primitives (00_scope.md R18, R19) -/

/-- `a >> n` on a signed value: `floor(a / 2^n)`, an arithmetic shift (R18). -/
def sar (a : Int) (n : Nat) : Int := a / 2 ^ n

/-- A mathematical integer is in s32 (R17). -/
def fitsS32 (v : Int) : Bool := decide (-2 ^ 31 ≤ v ∧ v ≤ 2 ^ 31 - 1)

/-- The wrap of R19: `((v + 2^31) mod 2^32) - 2^31`. -/
def wrapS32 (v : Int) : Int := (v + 2 ^ 31) % 2 ^ 32 - 2 ^ 31

/-- `narrow32(v)` (R19). -/
def narrow32 (p : OverflowPolicy) (v : Int) : Except Raise Int :=
  if fitsS32 v then .ok v
  else
    match p with
    | .fault => .error { code := .fxOverflow, info := .int v }
    | .wrap => .ok (wrapS32 v)

/-! ### The functions, once for each number of fractional bits (R120, R121) -/

/-- Multiply: exact product, arithmetic shift, narrow (R122, R128). The 64-bit intermediate never overflows. -/
def mulFx (frac : Nat) (p : OverflowPolicy) (a b : Int) : Except Raise Int := narrow32 p (sar (a * b) frac)

/-- Divide: widened numerator, quotient truncated toward zero, narrow (R123, R129). -/
def divFx (frac : Nat) (p : OverflowPolicy) (a b : Int) : Except Raise Int :=
  if b = 0 then .error { code := .fxDivZero, info := .int a }
  else narrow32 p ((a * 2 ^ frac).tdiv b)

/-- Integer to fixed point (R124, R130). -/
def fromIntFx (frac : Nat) (p : OverflowPolicy) (i : Int) : Except Raise Int := narrow32 p (i * 2 ^ frac)

/-- Fixed point to integer (R125, R131). -/
def toIntFx (frac : Nat) (x : Int) : Int := sar x frac

/-- `trunc(v * 2^frac)` of an exact rational product (R126): the numerator scaled, divided toward zero. -/
def scaleTrunc (frac : Nat) (v : Rat) : Int := (v.num * 2 ^ frac).tdiv v.den

/-- Real to fixed point (R126, R132). The overflow policy does not apply. -/
def fromFloatFx (frac : Nat) (v : Rat) : Except Raise Int :=
  if fitsS32 (scaleTrunc frac v) then .ok (scaleTrunc frac v)
  else .error { code := .fxFloatRange, info := .rat v }

/-- `n` rounded to the nearest multiple of `2^k`, ties to the even multiple; the result is the multiple's count. -/
def roundShiftEven (n k : Nat) : Nat :=
  let q := n / 2 ^ k
  let r := n % 2 ^ k
  if 2 * r < 2 ^ k then q
  else if 2 ^ k < 2 * r then q + 1
  else q + q % 2

/-- A natural number rounded to 24 significant bits, to nearest, ties to even. -/
def roundSig24 (n : Nat) : Nat := roundShiftEven n (n.log2 - 23) * 2 ^ (n.log2 - 23)

/-- A raw s32 value rounded as binary32 rounds it: 24 significand bits, nearest, ties to even, sign and magnitude
(PRESUMED IEEE 754, log entry 11). Dividing by `2^frac` afterwards is exact in binary32, so this rounds `x / 2^frac`. -/
def roundBinary32Raw (x : Int) : Int := x.sign * (roundSig24 x.natAbs : Nat)

/-- Fixed point to real (R127, R133). -/
def toFloatFx (frac : Nat) (m : ToFloatRounding) (x : Int) : Rat :=
  match m with
  | .exact => (x : Rat) / 2 ^ frac
  | .binary32Rne => (roundBinary32Raw x : Rat) / 2 ^ frac

/-! ### FixedPoint15 (R122 to R127) -/

/-- `mul15(a, b)` (R122). -/
def mul15 (p : OverflowPolicy) (a b : Int) : Except Raise Int := mulFx 15 p a b
/-- `div15(a, b)` (R123). -/
def div15 (p : OverflowPolicy) (a b : Int) : Except Raise Int := divFx 15 p a b
/-- `from_int15(i)` (R124). -/
def fromInt15 (p : OverflowPolicy) (i : Int) : Except Raise Int := fromIntFx 15 p i
/-- `to_int15(x)` (R125). -/
def toInt15 (x : Int) : Int := toIntFx 15 x
/-- `from_float15(v)` (R126). -/
def fromFloat15 (v : Rat) : Except Raise Int := fromFloatFx 15 v
/-- `to_float15(x)` (R127). -/
def toFloat15 (m : ToFloatRounding) (x : Int) : Rat := toFloatFx 15 m x

/-! ### FixedPoint28 (R128 to R133) -/

/-- `mul28(a, b)` (R128). -/
def mul28 (p : OverflowPolicy) (a b : Int) : Except Raise Int := mulFx 28 p a b
/-- `div28(a, b)` (R129). -/
def div28 (p : OverflowPolicy) (a b : Int) : Except Raise Int := divFx 28 p a b
/-- `from_int28(i)` (R130). -/
def fromInt28 (p : OverflowPolicy) (i : Int) : Except Raise Int := fromIntFx 28 p i
/-- `to_int28(x)` (R131). -/
def toInt28 (x : Int) : Int := toIntFx 28 x
/-- `from_float28(v)` (R132). -/
def fromFloat28 (v : Rat) : Except Raise Int := fromFloatFx 28 v
/-- `to_float28(x)` (R133). -/
def toFloat28 (m : ToFloatRounding) (x : Int) : Rat := toFloatFx 28 m x

/-! ### The twelve operations (R121): legal in every lifecycle phase, no state written -/

/-- An s32 result as a response (R92). -/
def intResponse (r : Except Raise Int) : Except Raise Value := r.map Value.int

/-- MUL15 (R122). -/
def execMul15 (s : State) : Host.Outcome State Fault Refusal :=
  s.respondWith (intResponse (mul15 s.cfg.overflowPolicy s.portA s.portB))

/-- DIV15 (R123). -/
def execDiv15 (s : State) : Host.Outcome State Fault Refusal :=
  s.respondWith (intResponse (div15 s.cfg.overflowPolicy s.portA s.portB))

/-- FROM_INT15 (R124). -/
def execFromInt15 (s : State) : Host.Outcome State Fault Refusal :=
  s.respondWith (intResponse (fromInt15 s.cfg.overflowPolicy s.portA))

/-- TO_INT15 (R125). -/
def execToInt15 (s : State) : Host.Outcome State Fault Refusal :=
  s.respondWith (.ok (.int (toInt15 s.portA)))

/-- FROM_FLOAT15 (R126). -/
def execFromFloat15 (s : State) : Host.Outcome State Fault Refusal :=
  s.respondWith (intResponse (fromFloat15 s.portF))

/-- TO_FLOAT15 (R127). -/
def execToFloat15 (s : State) : Host.Outcome State Fault Refusal :=
  s.respondWith (.ok (.rat (toFloat15 s.cfg.toFloatRounding s.portA)))

/-- MUL28 (R128). -/
def execMul28 (s : State) : Host.Outcome State Fault Refusal :=
  s.respondWith (intResponse (mul28 s.cfg.overflowPolicy s.portA s.portB))

/-- DIV28 (R129). -/
def execDiv28 (s : State) : Host.Outcome State Fault Refusal :=
  s.respondWith (intResponse (div28 s.cfg.overflowPolicy s.portA s.portB))

/-- FROM_INT28 (R130). -/
def execFromInt28 (s : State) : Host.Outcome State Fault Refusal :=
  s.respondWith (intResponse (fromInt28 s.cfg.overflowPolicy s.portA))

/-- TO_INT28 (R131). -/
def execToInt28 (s : State) : Host.Outcome State Fault Refusal :=
  s.respondWith (.ok (.int (toInt28 s.portA)))

/-- FROM_FLOAT28 (R132). -/
def execFromFloat28 (s : State) : Host.Outcome State Fault Refusal :=
  s.respondWith (intResponse (fromFloat28 s.portF))

/-- TO_FLOAT28 (R133). -/
def execToFloat28 (s : State) : Host.Outcome State Fault Refusal :=
  s.respondWith (.ok (.rat (toFloat28 s.cfg.toFloatRounding s.portA)))

end Sys2Proof.Machine
end

