-- ==== Sys2Proof/Machine/ConfigCheck.lean ====
section
/-! DEFINITION. The constants derived from the configuration (00_scope.md R8) and the checks the model refuses it for
(R9 to R15, R21). -/

namespace Sys2Proof.Machine

/-- `max / time` in fix15: `DIV15(MAX_AMPLITUDE, FROM_INT15(time))` (R8). -/
def rampInc (c : Cfg) (time : Nat) : Except Raise Int :=
  match fromInt15 c.overflowPolicy time with
  | .ok d => div15 c.overflowPolicy c.maxAmplitude d
  | .error r => .error r

/-- `ATTACK_INC` (R8). -/
def attackInc (c : Cfg) : Except Raise Int := rampInc c c.attackTime

/-- `DECAY_INC` (R8). -/
def decayInc (c : Cfg) : Except Raise Int := rampInc c c.decayTime

/-- Table geometry (R9): a power of two, and the downshift matches. -/
def checkGeometry (tableSize indexShift phaseBits : Nat) : Bool :=
  decide (2 ^ tableSize.log2 = tableSize) && decide (indexShift + tableSize.log2 = phaseBits)

/-- Ramp sizing (R10, R11): `1 <= time <= 65535` and `|MAX_AMPLITUDE - time * inc| <= 1`. A ramp whose increment faults is
refused (R8). -/
def checkRamp (c : Cfg) (time : Nat) : Bool :=
  decide (1 ≤ time) && decide (time ≤ 65535) &&
    match rampInc c time with
    | .ok inc => decide ((c.maxAmplitude - time * inc).natAbs ≤ 1)
    | .error _ => false

/-- Amplitude range (R12). -/
def checkAmplitude (c : Cfg) : Bool := decide (1 ≤ c.maxAmplitude) && decide (c.maxAmplitude ≤ 32768)

/-- One duration (R13): `ATTACK_TIME + DECAY_TIME < DURATION[e] <= 2^32 - 1`. -/
def checkDuration (c : Cfg) (e : Effect) : Bool :=
  decide (c.attackTime + c.decayTime < c.duration e) && decide (c.duration e ≤ 2 ^ 32 - 1)

/-- Every duration (R13). -/
def checkDurations (c : Cfg) : Bool :=
  checkDuration c (.tone .descend) && checkDuration c (.tone .parabolaA) && checkDuration c .silent &&
    checkDuration c (.tone .linearB) && checkDuration c (.tone .linearC) && checkDuration c (.tone .parabolaB)

/-- Law kinds (R14): tags 1, 5, 6 are linear, tag 1 descends, tags 2 and 7 are parabolic and differ. A rational's sign is its
numerator's. -/
def checkLaws (c : Cfg) : Bool :=
  decide ((c.law .descend).a.num = 0) && decide ((c.law .linearB).a.num = 0) && decide ((c.law .linearC).a.num = 0) &&
    decide ((c.law .descend).b.num < 0) && decide ((c.law .parabolaA).a.num ≠ 0) &&
    decide ((c.law .parabolaB).a.num ≠ 0) && decide (c.law .parabolaB ≠ c.law .parabolaA)

/-- Output constants (R15): `DC_OFFSET` in [0, 65535], `0 <= PEAK_AMPLITUDE` and `PEAK_AMPLITUDE * 2^15 < 2^31`, cleared of the
denominator. -/
def checkOutput (c : Cfg) : Bool :=
  decide (0 ≤ c.dcOffset) && decide (c.dcOffset ≤ 65535) && decide (0 ≤ c.peakAmplitude.num) &&
    decide (c.peakAmplitude.num * 2 ^ 15 < 2 ^ 31 * c.peakAmplitude.den)

/-- The configuration passes every check R9 to R15. -/
def configOk (c : Cfg) : Bool :=
  checkGeometry Config.tableSize Config.indexShift Config.phaseBits && checkRamp c c.attackTime && checkRamp c c.decayTime &&
    checkAmplitude c && checkDurations c && checkLaws c && checkOutput c

end Sys2Proof.Machine
end

