-- ==== Sys2Proof/Machine/Sine.lean ====
section
/-! DEFINITION. The reference `SINE_TABLE_FN` (41_oscillator_table.md R160): `trunc(PEAK_AMPLITUDE * sin(2*pi*i/256) * 2^15)`
"evaluated on the exact real value", for every rational peak. The arithmetic is on integers; that it is the real sine is the
statement SineTableFunction. -/

namespace Sys2Proof.Machine

/-- The sign of `b * cos(pi*m/128) - a`, for `b >= 0` and `m <= 128`. Below a quarter turn both sides are squared, since
`2*cos(x)^2 - 1 = cos(2*x)`; above it the angle is reflected. Eight doublings bring every angle to 0. -/
def cosSide : Nat → Nat → Int → Int → Int
  | 0, _, a, b => (b - a).sign
  | n + 1, m, a, b =>
    if m = 0 then (b - a).sign
    else if m ≤ 64 then
      if a < 0 then 1 else cosSide n (2 * m) (2 * a ^ 2 - b ^ 2) (b ^ 2)
    else
      if 0 < a then -1 else -cosSide n (2 * (128 - m)) (2 * a ^ 2 - b ^ 2) (b ^ 2)

/-- `r <= num * sin(pi*k/128) / den`, exactly, for a quarter turn's `k <= 64`. -/
def sineAtLeast (num den k r : Nat) : Bool := decide (0 ≤ cosSide 8 (64 - k) (r * den : Nat) num)

/-- The greatest number in `[lo, lo + 2^n)` with property `p`, where `p` holds of `lo` and, if of a number, of every smaller one. -/
def greatest (p : Nat → Bool) : Nat → Nat → Nat
  | 0, lo => lo
  | n + 1, lo => if p (lo + 2 ^ n) then greatest p n (lo + 2 ^ n) else greatest p n lo

/-- `floor(sin(pi*k/128) * 2^32)` for k = 0 to 64: where the search for an entry starts, and no part of its result. -/
def sineScaled : List Nat :=
  [0, 105403773, 210744056, 315957394, 420980412, 525749846, 630202589, 734275721] ++
  [837906552, 941032660, 1043591926, 1145522570, 1246763195, 1347252816, 1446930902, 1545737411] ++
  [1643612826, 1740498190, 1836335143, 1931065956, 2024633568, 2116981615, 2208054473, 2297797280] ++
  [2386155981, 2473077350, 2558509031, 2642399561, 2724698408, 2805355999, 2884323748, 2961554088] ++
  [3037000499, 3110617535, 3182360851, 3252187231, 3320054616, 3385922124, 3449750079, 3511500034] ++
  [3571134792, 3628618432, 3683916328, 3736995171, 3787822988, 3836369161, 3882604449, 3926501002] ++
  [3968032377, 4007173558, 4043900967, 4078192482, 4110027446, 4139386683, 4166252508, 4190608739] ++
  [4212440703, 4231735251, 4248480760, 4262667143, 4274285854, 4283329896, 4289793819, 4293673732] ++
  [4294967296]

/-- `floor(num * sin(pi*k/128) / den)`, exactly, for `k <= 64`. -/
def sineFloor (num den k : Nat) : Nat :=
  greatest (sineAtLeast num den k) ((num / (den * 2 ^ 32) + 1).log2 + 1) (num * sineScaled.getD k 0 / (den * 2 ^ 32))

/-- Index `i` of the period, folded into its first quarter. -/
def quarterIndex (i : Nat) : Nat := if i % 128 ≤ 64 then i % 128 else 128 - i % 128

/-- `trunc(peak * sin(2*pi*i/256) * 2^15)` (R160): the magnitude from the first quarter, negative in the second half period. -/
def peakSine (peak : Rat) (i : Nat) : Int :=
  (if i % 256 < 128 then peak.num.sign else -peak.num.sign)
    * (sineFloor (peak.num.natAbs * 2 ^ 15) peak.den (quarterIndex i) : Nat)

end Sys2Proof.Machine
end

