-- ==== Sys2Proof/Machine/Oscillator.lean ====
section
/-! DEFINITION. The oscillator table (41_oscillator_table.md): BUILD_TABLE and the lookup. -/

namespace Sys2Proof.Machine

/-- The info of FX_FLOAT_RANGE at index `i`: F itself (60_exceptions.md R261), which is the peak, or its negation, where the sine is
1 or -1. The other sines out of range are no rationals: there it is the free value of log entry 8. -/
def sineRangeInfo (peak : Rat) (i : Nat) : Rat :=
  if i = 64 then peak else if i = 192 then -peak else Config.sineInfo peak i

/-- `SINE_TABLE_FN(i)`. The reference is `from_float15` of the peak times the sine (R160): truncated, or FX_FLOAT_RANGE where that
is outside s32 (40_fixed_point.md R126), which no peak of R15 gives. A deployed table is s32 (R165). -/
def sineTableFn (c : Cfg) (i : Nat) : Except Raise Int :=
  match c.sineTable with
  | .exactSine =>
    if fitsS32 (peakSine c.peakAmplitude i) then .ok (peakSine c.peakAmplitude i)
    else .error { code := .fxFloatRange, info := .rat (sineRangeInfo c.peakAmplitude i) }
  | .deployed t => .ok (t.toList.getD i 0).toInt

/-- The loop of BUILD_TABLE (R161) over a list of indexes: "a fault inside SINE_TABLE_FN aborts the whole operation". -/
def fillTable (c : Cfg) : List Nat → Memory → Except Raise Memory
  | [], m => .ok m
  | i :: rest, m =>
    match sineTableFn c i with
    | .ok v => fillTable c rest (Memory.write m i (toReg v))
    | .error r => .error r

/-- The table index of a phase: `PHASE[31:24]` (R163, 20_memory.md R71). -/
def tableIndex (phase : Word) : Nat := (phase >>> Config.indexShift).toNat

/-- BUILD_TABLE (R161). -/
def execBuildTable (s : State) : Host.Outcome State Fault Refusal :=
  if s.lifecycle ≠ .uninit then s.conclude (.error (.raised { code := .tableRebuild, info := s.lifecycle.info }))
  else s.conclude (orRaise ((fillTable s.cfg (List.range Config.tableSize) s.table).map
    fun m => (s.setTable m).setLifecycle .ready))

end Sys2Proof.Machine
end

