-- ==== Sys2Proof/Machine/Synth.lean ====
section
/-! DEFINITION. The synthesis engine (42_dds_engine.md): one tone step of voice 0, in the source's eight steps. -/

namespace Sys2Proof.Machine

/-- Step 1: `a*x^2 + b*x + c`, exact over the rationals (R181). -/
def evalLaw (l : Law) (x : Nat) : Rat := l.a * x * x + l.b * x + l.c

/-- `0 <= f < SAMPLE_RATE / 2` (R182). -/
def audible (f : Rat) : Bool := decide (0 ≤ f) && decide (f < (Config.sampleRate : Rat) / 2)

/-- The reference `PHASE_INC_FN`: `floor(f * 2^32 / SAMPLE_RATE)`, exact (R183). -/
def referencePhaseInc (f : Rat) : Word := toReg (f * 2 ^ Config.phaseBits / Config.sampleRate).floor

/-- Step 2: `PHASE_INC_FN(f)`, a u32 (R183). -/
def phaseInc (c : Cfg) (f : Rat) : Word :=
  match c.phaseIncFn with
  | .exactFloor => referencePhaseInc f
  | .deployed n => Config.deployedPhaseInc n f

/-- Step 3: `(PHASE[0] + inc) mod 2^32` (R184, R194). -/
def accumulate (phase inc : Word) : Word := phase + inc

/-- Step 5: `(to_int15(mul15(AMP[0], raw)) + DC_OFFSET) mod 2^16`, a mask and not a saturation (R186). -/
def outputSample (c : Cfg) (amp raw : Int) : Except Raise Sample :=
  (mul15 c.overflowPolicy amp raw).map fun p => BitVec.ofInt 16 (toInt15 p + c.dcOffset)

/-- An s32 addition checked by `narrow32` (R187), of an increment that R8 computes. -/
def addRamp (p : OverflowPolicy) (amp sign : Int) : Except Raise Int → Except Raise Int
  | .ok inc => narrow32 p (amp + sign * inc)
  | .error r => .error r

/-- Step 6: the amplitude envelope (R187), attack test first. `x` is the elapsed count before this tick's increment and the
decay comparison is on mathematical integers. -/
def envelope (c : Cfg) (e : Effect) (x : Nat) (amp : Int) : Except Raise Int :=
  if x < c.attackTime then addRamp c.overflowPolicy amp 1 (attackInc c)
  else if (c.duration e : Int) - c.decayTime < x then addRamp c.overflowPolicy amp (-1) (decayInc c)
  else .ok amp

/-- The instantaneous frequency of a tone tick, from the elapsed count before its increment (R181). -/
def toneFreq (s : State) (t : Tone) : Rat := evalLaw (s.cfg.law t) s.voice0.elapsed.toNat

/-- The phase a tone tick leaves (R183, R184). -/
def tonePhase (s : State) (t : Tone) : Word := accumulate s.voice0.phase (phaseInc s.cfg (toneFreq s t))

/-- Voice 0 after steps 3, 6 and 8: new phase, new amplitude, elapsed count plus one (R184, R187, R188). -/
def toneVoice (s : State) (t : Tone) (amp : Int) : Voice :=
  { s.voice0 with phase := tonePhase s t, amp := toReg amp, elapsed := s.voice0.elapsed + 1 }

/-- `synth_tone(e)` (R180). The lookup reads the phase after the accumulation (R185), and the output uses the amplitude before
the envelope's update (R186). -/
def synthTone (t : Tone) (s : State) : Except Stop State :=
  if audible (toneFreq s t) = false then .error (.raised { code := .freqRange, info := .rat (toneFreq s t) })
  else
    match Memory.read s.table (tableIndex (tonePhase s t)) with
    | none => .error (.stuck .unwrittenEntry)
    | some raw =>
      match outputSample s.cfg s.voice0.amp.toInt raw.toInt with
      | .error r => .error (.raised r)
      | .ok x =>
        match envelope s.cfg (.tone t) s.voice0.elapsed.toNat s.voice0.amp.toInt with
        | .error r => .error (.raised r)
        | .ok amp => .ok ((s.setVoice0 (toneVoice s t amp)).emit x)

/-- The quiet sample: `DC_OFFSET mod 2^16` (R189). -/
def quietSample (c : Cfg) : Sample := BitVec.ofInt 16 c.dcOffset

/-- What a quiet tick does to the sink (R189): the quiet sample, if `QUIET_TICK_WRITES`. -/
def State.quietEmit (s : State) : State := if s.cfg.quietTickWrites then s.emit (quietSample s.cfg) else s

end Sys2Proof.Machine
end

