-- ==== Sys2Proof/Machine/SoundMachine.lean ====
section
/-! DEFINITION. The sound state machine and the Trigger Flag (43_sound_state_machine.md). -/

namespace Sys2Proof.Machine

/-- The transition into effect `e` (R212): state `e`, elapsed count 0, amplitude 0, trigger cleared, phase kept. -/
def State.enterEffect (e : Effect) (s : State) : State :=
  { s with voice0 := { s.voice0 with state := .playing e, amp := 0, elapsed := 0 }, trig := 0 }

/-- The transition back to IDLE (R215): the same resets, phase kept. -/
def State.returnToIdle (s : State) : State :=
  { s with voice0 := { s.voice0 with state := .idle, amp := 0, elapsed := 0 }, trig := 0 }

/-- `complete(e)` (R215): the test runs after the tick's increment. -/
def State.complete (e : Effect) (s : State) : State :=
  if s.voice0.elapsed.toNat = s.cfg.duration e then s.returnToIdle else s

/-- The transition part of the IDLE arm (R212, R219): a trigger that names no effect is neither acted on nor cleared. -/
def State.consumeTrigger (s : State) : State :=
  match effectOfTrig s.trig with
  | some e => s.enterEffect e
  | none => s

/-- `idle_arm()` (R212). -/
def idleArm (s : State) : State := s.consumeTrigger.quietEmit

/-- `ELAPSED[0] <- ELAPSED[0] + 1` (R188, R214). -/
def State.countSample (s : State) : State :=
  s.setVoice0 { s.voice0 with elapsed := s.voice0.elapsed + 1 }

/-- `silent_arm()` (R214): no sweep law, no phase, no envelope. -/
def silentArm (s : State) : State := s.quietEmit.countSample.complete .silent

/-- `tone_arm(e)` (R213). -/
def toneArm (t : Tone) (s : State) : Except Stop State := (synthTone t s).map (State.complete (.tone t))

/-- `sm_tick()` (R211): exactly one arm, chosen by `STATE[0]` at the start of the tick. -/
def smTick (s : State) : Except Stop State :=
  match s.voice0.state with
  | .idle => .ok (idleArm s)
  | .playing .silent => .ok (silentArm s)
  | .playing (.tone t) => toneArm t s

/-- WRITE_TRIGGER (R217). -/
def execWriteTrigger (imm8 : Nat) (s : State) : Host.Outcome State Fault Refusal :=
  s.conclude (.ok (s.writeTrig (trigImm imm8)))

end Sys2Proof.Machine
end

