-- ==== Sys2Proof/Machine/Scheduler.lean ====
section
/-! DEFINITION. The sample-rate timer (44_scheduler.md): START_TIMER, TICK, READ_DIAG. -/

namespace Sys2Proof.Machine

/-- START_TIMER (R241). -/
def execStartTimer (s : State) : Host.Outcome State Fault Refusal :=
  match s.lifecycle with
  | .uninit => s.conclude (.error (.raised { code := .notReady, info := s.lifecycle.info }))
  | .running => s.conclude (.error (.raised { code := .timerRearm, info := s.lifecycle.info }))
  | .ready => s.conclude (.ok (s.setLifecycle .running))

/-- TICK (R242): the one interrupt, taken as one atomic step (R244, 60_exceptions.md R268). -/
def execTick (ctx : Nat) (s : State) : Host.Outcome State Fault Refusal :=
  if s.lifecycle ≠ .running then s.conclude (.error (.raised { code := .timerNotArmed, info := s.lifecycle.info }))
  else s.conclude ((smTick s).map (State.setLastCtx (zextCtx ctx)))

/-- READ_DIAG (R243): responds `LAST_CTX`, a u32. -/
def execReadDiag (s : State) : Host.Outcome State Fault Refusal :=
  s.respondWith (.ok (.int s.lastCtx.toNat))

end Sys2Proof.Machine
end

