-- ==== Sys2Proof/Machine/Fetch.lean ====
section
/-! DEFINITION. What a step does before an operation's own rule runs: the checks of R21 and R262, taking the next program element,
decode (30_encoding.md R93) and the agent check (R101), in that order of priority (60_exceptions.md R264, log entry 17). -/

namespace Sys2Proof.Machine

/-- What comes of it: the step is over, or operation `i` runs in state `s`. -/
inductive Fetched where
  | stop (o : Host.Outcome State Fault Refusal)
  | run (i : Instr) (s : State)

/-- Decode and agent check of the element that state `s` is performing (R93, R96, R101). The info value is the word. -/
def decodeOp (s : State) : Fetched :=
  match decode s.op.word with
  | .error _ => .stop (s.conclude (.error (.raised { code := .illegalOp, info := .int s.op.word.toNat })))
  | .ok i =>
    if s.op.agent ≠ i.agent then
      .stop (s.conclude (.error (.raised { code := .wrongAgent, info := .int s.op.word.toNat })))
    else .run i s

/-- A refused configuration has no runs (R21); a faulted state has no step (R262); a run ends when nothing is issued (R306);
otherwise the first pending element is taken. -/
def fetch (s : State) : Fetched :=
  if configOk s.cfg = false then .stop (.refused .configRefused)
  else if s.fault ≠ .none then .stop (.fault (.faulted s.fault))
  else
    match s.pending with
    | [] => .stop (.refused .noOperation)
    | e :: rest => decodeOp (s.accept e rest)

/-- The program element for one operation word, as an opcode-table row gives it: issued by the agent of R94, with port B = 1 and
the other ports 0 (log entry 4). A word that is no operation comes from the host. -/
def issueOfWord (w : Word) : Issue :=
  { agent := match decode w with
      | .ok i => i.agent
      | .error _ => .host
    word := w
    ports := { a := 0, b := 1, f := mkRat 0 1 } }

/-- Put a program element in front of those pending. -/
def State.issue (e : Issue) (s : State) : State := { s with pending := e :: s.pending }

end Sys2Proof.Machine
end

