-- ==== Sys2Proof/Machine/Dispatch.lean ====
section
/-! DEFINITION. One arm for each operation of the opcode table (30_encoding.md R94). -/

namespace Sys2Proof.Machine

def exec (i : Instr) (s : State) : Host.Outcome State Fault Refusal :=
  match i with
  | .buildTable => Sys2Proof.Machine.execBuildTable s
  | .startTimer => Sys2Proof.Machine.execStartTimer s
  | .tick ctx => Sys2Proof.Machine.execTick ctx s
  | .writeTrigger imm8 => Sys2Proof.Machine.execWriteTrigger imm8 s
  | .readDiag => Sys2Proof.Machine.execReadDiag s
  | .mul15 => Sys2Proof.Machine.execMul15 s
  | .div15 => Sys2Proof.Machine.execDiv15 s
  | .fromInt15 => Sys2Proof.Machine.execFromInt15 s
  | .toInt15 => Sys2Proof.Machine.execToInt15 s
  | .fromFloat15 => Sys2Proof.Machine.execFromFloat15 s
  | .toFloat15 => Sys2Proof.Machine.execToFloat15 s
  | .mul28 => Sys2Proof.Machine.execMul28 s
  | .div28 => Sys2Proof.Machine.execDiv28 s
  | .fromInt28 => Sys2Proof.Machine.execFromInt28 s
  | .toInt28 => Sys2Proof.Machine.execToInt28 s
  | .fromFloat28 => Sys2Proof.Machine.execFromFloat28 s
  | .toFloat28 => Sys2Proof.Machine.execToFloat28 s

end Sys2Proof.Machine
end

