-- ==== Sys2Proof/Machine/Step.lean ====
section
/-! DEFINITION. One step of the block (00_scope.md R6, R21): one program element performed atomically (20_memory.md R79). -/

namespace Sys2Proof.Machine

/-- One step. -/
def step (s : State) : Host.Outcome State Fault Refusal :=
  match fetch s with
  | .stop o => o
  | .run i t => exec i t

/-- `s` with the operation word `w` (its bits from `nbits` up 0) as the next program element, issued by the agent R94 gives it. -/
def State.withFetchWord (s : State) (nbits w : Nat) : State :=
  s.issue (issueOfWord (BitVec.ofNat 32 (w % 2 ^ nbits)))

end Sys2Proof.Machine
end

