-- ==== Sys2Proof/Machine/Listing.lean ====
section
/-! DEFINITION. The listing syntax and the pseudo-operations (30_encoding.md R102, R103): a line of text, the line it spells, and the
program elements the assembler emits for it. The step never sees a listing, only program elements. -/

namespace Sys2Proof.Machine

/-! ### Lines and what they assemble to -/

/-- One listing line. `ticks` and `boot` are the two pseudo-operations (R103). -/
inductive Line where
  | op (agent : Agent) (i : Instr) (ports : Ports)
  | ticks (n ctx : Nat)
  | boot
  deriving DecidableEq, Repr

/-- Ports of an operation that reads none: any value, since "A port the operation does not read is ignored" (R92). -/
def noPorts : Ports := { a := 0, b := 0, f := mkRat 0 1 }

/-- The program elements of a line (R102, R103): `TICKS n, c` is n copies of `TICK c`, and `BOOT` is BUILD_TABLE, START_TIMER. -/
def Line.assemble : Line → List Issue
  | .op a i p => [{ agent := a, word := encode i, ports := p }]
  | .ticks n c => List.replicate n { agent := .timer, word := encode (.tick c), ports := noPorts }
  | .boot => [{ agent := .host, word := encode .buildTable, ports := noPorts },
              { agent := .host, word := encode .startTimer, ports := noPorts }]

/-! ### Numbers: "Integers are decimal or 0x hex, with an optional minus sign; rationals are p/q or a decimal literal" (R102) -/

/-- The value of a digit in base 10 or 16. -/
def digitVal (base : Nat) (ch : Char) : Option Nat :=
  let n := ch.toNat
  let v := if 48 ≤ n ∧ n ≤ 57 then n - 48
    else if 65 ≤ n ∧ n ≤ 70 then n - 55
    else if 97 ≤ n ∧ n ≤ 102 then n - 87
    else 16
  if v < base then some v else none

/-- Digits in a base, the most significant first, onto what has been read. -/
def parseDigits (base : Nat) : List Char → Nat → Option Nat
  | [], acc => some acc
  | ch :: rest, acc =>
    match digitVal base ch with
    | some d => parseDigits base rest (acc * base + d)
    | none => none

/-- An unsigned number, decimal or `0x` hex, at least one digit. The prefix's small x, and both cases of hex digits, are the model's
choice (DESIGN CHOICE, log entry 18). -/
def parseNat : List Char → Option Nat
  | '0' :: 'x' :: ch :: rest => parseDigits 16 (ch :: rest) 0
  | ch :: rest => parseDigits 10 (ch :: rest) 0
  | [] => none

/-- An integer. -/
def parseInt : List Char → Option Int
  | '-' :: rest => (parseNat rest).map fun n => -(n : Int)
  | cs => (parseNat cs).map fun n => (n : Int)

/-- What stands before the first `ch`, and what stands after it if there is one. -/
def splitAt (ch : Char) (cs : List Char) : List Char × Option (List Char) :=
  (cs.takeWhile (· ≠ ch), match cs.dropWhile (· ≠ ch) with
    | [] => none
    | _ :: rest => some rest)

/-- An unsigned rational: `p/q` or `w.d` (R102), or a bare number. DESIGN CHOICE (log entry 18): the bare number, hex for it and for p
and q (`F=0x10`), and no minus sign on q. -/
def parsePosRat (cs : List Char) : Option Rat :=
  match splitAt '/' cs with
  | (p, some q) =>
    match parseNat p, parseNat q with
    | some n, some d => if d = 0 then none else some (mkRat n d)
    | _, _ => none
  | (_, none) =>
    match splitAt '.' cs with
    | (w, some d) =>
      match w, d with
      | _ :: _, _ :: _ => (parseDigits 10 (w ++ d) 0).map fun n => mkRat n (10 ^ d.length)
      | _, _ => none
    | (w, none) => (parseNat w).map fun n => mkRat n 1

/-- A rational: at most one minus sign, in front of the whole (DESIGN CHOICE, log entry 18). -/
def parseRat : List Char → Option Rat
  | '-' :: rest => (parsePosRat rest).map fun q => -q
  | cs => parsePosRat cs

/-! ### Operands -/

/-- Drop blanks at both ends. -/
def trim (cs : List Char) : List Char :=
  ((cs.dropWhile (· = ' ')).reverse.dropWhile (· = ' ')).reverse

/-- The texts between commas, trimmed. `fuel` bounds their number. -/
def splitCommas : Nat → List Char → List (List Char)
  | 0, _ => []
  | fuel + 1, cs =>
    match splitAt ',' cs with
    | (w, none) => [trim w]
    | (w, some rest) => trim w :: splitCommas fuel rest

/-- The comma-separated operands: none for an empty text. -/
def operands (cs : List Char) : List (List Char) := if trim cs = [] then [] else splitCommas 4 cs

/-- An 8-bit number 0 to 255 (R102). -/
def parseByte (cs : List Char) : Option Nat :=
  match parseNat cs with
  | some n => if n < 256 then some n else none
  | none => none

/-- A named s32 port: `A=<int>` (R92, R102). -/
def parseIntPort (name : Char) : List Char → Option Word
  | n :: '=' :: cs =>
    if n = name then
      match parseInt (trim cs) with
      | some v => if fitsS32 v then some (toReg v) else none
      | none => none
    else none
  | _ => none

/-- The named rational port: `F=<rational>`. -/
def parseRatPort : List Char → Option Rat
  | 'F' :: '=' :: cs => parseRat (trim cs)
  | _ => none

/-- Which operands a mnemonic takes: the "ports read" column of R94, or a field. -/
inductive Shape where
  | plain (i : Instr)
  | portsAB (i : Instr)
  | portA (i : Instr)
  | portF (i : Instr)
  | tickField
  | trigField
  | ticksPseudo
  | bootPseudo
  deriving DecidableEq, Repr

/-- The mnemonics of R94, `WTRIG` (R102), and the pseudo-operations (R103). -/
def mnemonics : List (String × Shape) :=
  [("BUILD_TABLE", .plain .buildTable), ("START_TIMER", .plain .startTimer), ("TICK", .tickField),
   ("WRITE_TRIGGER", .trigField), ("WTRIG", .trigField), ("READ_DIAG", .plain .readDiag),
   ("TICKS", .ticksPseudo), ("BOOT", .bootPseudo)] ++
  [("MUL15", .portsAB .mul15), ("DIV15", .portsAB .div15), ("FROM_INT15", .portA .fromInt15),
   ("TO_INT15", .portA .toInt15), ("FROM_FLOAT15", .portF .fromFloat15), ("TO_FLOAT15", .portA .toFloat15)] ++
  [("MUL28", .portsAB .mul28), ("DIV28", .portsAB .div28), ("FROM_INT28", .portA .fromInt28),
   ("TO_INT28", .portA .toInt28), ("FROM_FLOAT28", .portF .fromFloat28), ("TO_FLOAT28", .portA .toFloat28)]

/-- The shape of a mnemonic. -/
def shapeOf (m : List Char) : Option Shape :=
  (mnemonics.find? fun p => decide (p.1.toList = m)).map Prod.snd

/-- A line's meaning from its agent, its mnemonic's shape and its operands. The pseudo-operations have one agent each (R103). -/
def parseBody (agent : Agent) (sh : Shape) (ops : List (List Char)) : Option Line :=
  match sh, ops with
  | .plain i, [] => some (.op agent i noPorts)
  | .portsAB i, [x, y] =>
    match parseIntPort 'A' x, parseIntPort 'B' y with
    | some a, some b => some (.op agent i { noPorts with a := a, b := b })
    | _, _ => none
  | .portA i, [x] => (parseIntPort 'A' x).map fun a => .op agent i { noPorts with a := a }
  | .portF i, [x] => (parseRatPort x).map fun f => .op agent i { noPorts with f := f }
  | .tickField, [x] => (parseByte x).map fun c => .op agent (.tick c) noPorts
  | .trigField, [x] => (parseByte x).map fun v => .op agent (.writeTrigger v) noPorts
  | .ticksPseudo, [x, y] =>
    match parseNat x, parseByte y with
    | some n, some c => if agent = .timer ∧ 1 ≤ n then some (.ticks n c) else none
    | _, _ => none
  | .bootPseudo, [] => if agent = .host then some .boot else none
  | _, _ => none

/-- The agent's name. -/
def parseAgent (cs : List Char) : Option Agent :=
  if cs = "timer".toList then some .timer
  else if cs = "host".toList then some .host
  else none

/-- One line, `<agent>: <MNEMONIC> <operands>`; "A comment runs from `;` to end of line" (R102). -/
def parseLine (text : String) : Option Line :=
  match splitAt ':' (splitAt ';' text.toList).1 with
  | (_, none) => none
  | (ag, some rest) =>
    match splitAt ' ' (trim rest) with
    | (m, ops) =>
      match parseAgent (trim ag), shapeOf m with
      | some a, some sh => parseBody a sh (operands (ops.getD []))
      | _, _ => none

/-- The program elements of a whole line of text; none where the line is not of R102. -/
def assembleText (text : String) : Option (List Issue) := (parseLine text).map Line.assemble

end Sys2Proof.Machine
end

