-- ==== Sys2Proof/Machine/Environment.lean ====
section
/-! DEFINITION. The agents around the block: what they may issue and in what runs. No rule of the step reads any of it. -/

namespace Sys2Proof.Machine

/-- The timer's issue of `TICK c` with the given ports, which TICK ignores (44_scheduler.md R242). -/
def tickIssue (c : Nat) (p : Ports) : Issue := { agent := .timer, word := encode (.tick c), ports := p }

/-- The host's issue of `WRITE_TRIGGER v` (43_sound_state_machine.md R217). -/
def triggerIssue (v : Nat) (p : Ports) : Issue := { agent := .host, word := encode (.writeTrigger v), ports := p }

/-- A program element is a legal TICK of the timer. -/
def IsTick (e : Issue) : Prop := ∃ c p, c < 256 ∧ e = tickIssue c p

/-- A program element is a legal WRITE_TRIGGER of the host. -/
def IsTriggerWrite (e : Issue) : Prop := ∃ v p, v < 256 ∧ e = triggerIssue v p

/-- Whether an element's operation code is TICK's. -/
def isTickWord (e : Issue) : Bool := decide (byteField e.word 24 = 0x03)

/-- How many elements of a list are TICKs. -/
def tickCount (l : List Issue) : Nat := (l.filter isTickWord).length

/-- What the timer may draw (60_exceptions.md R275): a TICK whose context id is in `CONTEXT_IDS`. -/
def TimerMayIssue (c : Cfg) (e : Issue) : Prop :=
  ∃ ctx p, ctx < 256 ∧ BitVec.ofNat 8 ctx ∈ c.contextIds ∧ e = tickIssue ctx p

/-- Fairness of an infinite run (44_scheduler.md R245): "a run with infinitely many steps has infinitely many TICKs". -/
def Fair (r : Nat → Issue) : Prop := ∀ n, ∃ m, n ≤ m ∧ IsTick (r m)

/-- What the source's game loop issues on a hit (70_reset_and_hazards.md R307): `WRITE_TRIGGER(HIT_EFFECT)`. -/
def hitIssue (c : Cfg) : Issue := triggerIssue (effectTag c.hitEffect).toNat noPorts

end Sys2Proof.Machine
end

