-- ==== Sys2Proof/Safety.lean ====
section
/-! DEFINITION. What counts as a good state and a good run, in the terms the statements use (70_reset_and_hazards.md R306). -/

namespace Sys2Proof.Machine

/-- "Claims about good behaviour are claims about runs with `FAULT = NONE`" (R306). -/
abbrev State.Unfaulted (s : State) : Prop := s.fault = .none

/-- The value of an increment of R8, 0 where the configuration is refused for it. -/
def incValue : Except Raise Int → Int
  | .ok v => v
  | .error _ => 0

/-- The amplitude of a tone effect of duration `d` after `x` of its tone ticks (42_dds_engine.md R190 to R192): the attack steps
taken so far, less the decay steps taken so far. Ticks with elapsed count `d - DECAY_TIME + 1` and above decay. -/
def plannedAmp (c : Cfg) (d x : Nat) : Int :=
  (min x c.attackTime : Nat) * incValue (attackInc c)
    - (x - (d - c.decayTime + 1) : Nat) * incValue (decayInc c)

/-- The invariant of the block: the table's form and contents in each lifecycle phase (R39, R42, R81), the voice that is never used
(R36) or not yet used (R291), the fault registers (R41), and what each sound state says of the voice registers (R34, R35,
R190 to R192, R214, R220). -/
structure State.Inv (s : State) : Prop where
  table_canonical : Memory.wf s.table = true
  table_unbuilt   : s.lifecycle = .uninit → s.table = []
  table_built     : s.lifecycle ≠ .uninit → ∀ i, i < 256 →
    ∃ v, sineTableFn s.cfg i = .ok v ∧ Memory.read s.table i = some (toReg v)
  voice1_inert    : s.voice1 = Voice.reset
  fault_recorded  : s.fault = .none ↔ s.faultInfo = none
  untouched       : s.lifecycle ≠ .running → s.voice0 = Voice.reset ∧ s.out = [] ∧ s.lastCtx = 0
  idle_zero       : s.voice0.state = .idle → s.voice0.elapsed = 0 ∧ s.voice0.amp = 0
  silent_zero     : s.voice0.state = .playing .silent → s.voice0.amp = 0
  elapsed_bound   : ∀ e, s.voice0.state = .playing e → s.voice0.elapsed.toNat < s.cfg.duration e
  tone_amp        : ∀ t, s.voice0.state = .playing (.tone t) →
    s.voice0.amp.toInt = plannedAmp s.cfg (s.cfg.duration (.tone t)) s.voice0.elapsed.toNat

/-- The sweep law of an effect stays in the legal range for its whole duration (70_reset_and_hazards.md R297). The silent effect
has no law. -/
def LawInRange (c : Cfg) : Effect → Prop
  | .silent => True
  | .tone t => ∀ x, x < c.duration (.tone t) → audible (evalLaw (c.law t) x) = true

/-! ### The spec's arithmetic, spelled on integers and rationals -/

/-- `v` is in s32 (R17): [-2^31, 2^31 - 1]. -/
def InS32 (v : Int) : Prop := -2 ^ 31 ≤ v ∧ v < 2 ^ 31

/-- `trunc(q)` (R18): rounds toward zero. -/
def truncTowardZero (q : Rat) : Int := if 0 ≤ q then ⌊q⌋ else ⌈q⌉

/-- `r = trunc(x)` for a real `x` (R18). -/
def TruncatesTo (x : ℝ) (r : Int) : Prop := (0 ≤ x → r = ⌊x⌋) ∧ (x ≤ 0 → r = ⌈x⌉)

/-- `r` is the `SINE_TABLE_FN` of configuration `c` (41_oscillator_table.md R160, R165), s32 or not: the exact real sine at the
configuration's peak, truncated, or the deployed table. -/
def SineValues (c : Cfg) (r : Nat → Int) : Prop :=
  match c.sineTable with
  | .exactSine => ∀ i : Nat, i < 256 → TruncatesTo ((c.peakAmplitude : ℝ) * Real.sin (2 * Real.pi * i / 256) * 2 ^ 15) (r i)
  | .deployed t => ∀ (i : Nat) (h : i < 256), r i = t[i].toInt

/-- The state an operation leaves that responds with `v` and writes nothing (R20, R43). -/
def State.responding (s : State) (v : Value) : State := { s with responses := s.responses ++ [v] }

/-- The state an operation leaves that raises a fault (R20, R262). -/
def State.faulting (s : State) (code : FaultCode) (info : Value) : State :=
  { s with fault := code, faultInfo := some { word := s.op.word, info := info } }

/-- Operation `i` in state `s` responds with `narrow32(q)` (R19): `q` itself where it fits, and otherwise what the overflow policy
says. -/
def RespondsNarrowed (i : Instr) (s : State) (q : Int) : Prop :=
  (InS32 q → exec i s = .next (s.responding (.int q))) ∧
  (¬ InS32 q → s.cfg.overflowPolicy = .fault → exec i s = .next (s.faulting .fxOverflow (.int q))) ∧
  (¬ InS32 q → s.cfg.overflowPolicy = .wrap →
    exec i s = .next (s.responding (.int ((q + 2 ^ 31) % 2 ^ 32 - 2 ^ 31))))

/-- The faults an operation's own rule can raise (60_exceptions.md R263). -/
def faultsOf : Instr → List FaultCode
  | .buildTable => [.tableRebuild, .fxFloatRange]
  | .startTimer => [.notReady, .timerRearm]
  | .tick _ => [.timerNotArmed, .freqRange, .fxOverflow]
  | .writeTrigger _ | .readDiag => []
  | .mul15 | .mul28 | .fromInt15 | .fromInt28 => [.fxOverflow]
  | .div15 | .div28 => [.fxDivZero, .fxOverflow]
  | .fromFloat15 | .fromFloat28 => [.fxFloatRange]
  | .toInt15 | .toInt28 | .toFloat15 | .toFloat28 => []

/-- A program element is an operation of the host that completes without a fault, at its words and ports, in every unfaulted RUNNING
state under configuration `c`: one of those R220 admits between the ticks of an effect, where no fault ends the run. -/
def HostCompletes (c : Cfg) (e : Issue) : Prop :=
  e.agent = .host ∧ ∃ i, decode e.word = .ok i ∧ i.agent = .host ∧
    ∀ s : State, s.cfg = c → s.op = e → s.lifecycle = .running → s.Unfaulted → ∃ t, exec i s = .next t ∧ t.Unfaulted

/-- A list of program elements performed from state `s`, one step each (R6). -/
def State.run (s : State) (l : List Issue) : Host.Outcome State Fault Refusal :=
  Sys2Proof.core.run l.length { s with pending := l }

end Sys2Proof.Machine
end

