-- ==== Sys2Proof/Certificates/Slice0/Obligations.lean ====
section
/-! DEFINITION. The statements for the provers, from the numbered rules of spec/. -/

open Sys2Proof Sys2Proof.Machine

/-! ### Encoding (30_encoding.md) -/

/-- R93 to R95: decoding the encoding of a well-formed operation gives it back, with every `ctx` and every `imm8`. -/
def Obligations.DecodeEncodeRoundTrip : Prop :=
  ∀ i : Instr, i.WellFormed → decode (encode i) = .ok i

/-- R93 to R95: every legal word is the encoding of the one well-formed operation it decodes to. -/
def Obligations.EncodeDecodeRoundTrip : Prop :=
  ∀ (w : Word) (i : Instr), decode w = .ok i → i.WellFormed ∧ encode i = w

/-- R96: a word is illegal exactly if its `opc` is unassigned, its `rsv` is not 0, its `ctx` is not 0 in an operation other than
TICK, or its `imm8` is not 0 in an operation other than WRITE_TRIGGER. Fields are bit slices of the word (R91). -/
def Obligations.IllegalWordsAreTheReservedOnes : Prop :=
  ∀ w : Word, (∃ e, decode w = .error e) ↔
    (w.extractLsb' 24 8 ∉ ([0x01, 0x02, 0x03, 0x04, 0x05, 0x10, 0x11, 0x12, 0x13, 0x14, 0x15,
        0x20, 0x21, 0x22, 0x23, 0x24, 0x25] : List Byte) ∨
      w.extractLsb' 16 8 ≠ 0 ∨
      (w.extractLsb' 24 8 ≠ 0x03 ∧ w.extractLsb' 8 8 ≠ 0) ∨
      (w.extractLsb' 24 8 ≠ 0x04 ∧ w.extractLsb' 0 8 ≠ 0))

/-- R94: every operation's word, written bit by bit from the encoding column, decodes to the operation it stands for. -/
def Obligations.SpecWordsDecode : Prop :=
  (decode 0b00000001000000000000000000000000 = .ok .buildTable ∧
    decode 0b00000010000000000000000000000000 = .ok .startTimer ∧
    decode 0b00000011000000001111111100000000 = .ok (.tick 255) ∧
    decode 0b00000100000000000000000000000010 = .ok (.writeTrigger 2) ∧
    decode 0b00000101000000000000000000000000 = .ok .readDiag) ∧
  (decode 0b00010000000000000000000000000000 = .ok .mul15 ∧
    decode 0b00010001000000000000000000000000 = .ok .div15 ∧
    decode 0b00010010000000000000000000000000 = .ok .fromInt15 ∧
    decode 0b00010011000000000000000000000000 = .ok .toInt15 ∧
    decode 0b00010100000000000000000000000000 = .ok .fromFloat15 ∧
    decode 0b00010101000000000000000000000000 = .ok .toFloat15) ∧
  (decode 0b00100000000000000000000000000000 = .ok .mul28 ∧
    decode 0b00100001000000000000000000000000 = .ok .div28 ∧
    decode 0b00100010000000000000000000000000 = .ok .fromInt28 ∧
    decode 0b00100011000000000000000000000000 = .ok .toInt28 ∧
    decode 0b00100100000000000000000000000000 = .ok .fromFloat28 ∧
    decode 0b00100101000000000000000000000000 = .ok .toFloat28)

/-! ### The step (00_scope.md R6, R21; 60_exceptions.md R262, R264) -/

/-- A step performs the decoded operation of the next program element: in a checked configuration and an unfaulted state, if the
element's word decodes to `i` and its agent is `i`'s, the step is `exec i` with that element taken. -/
def Obligations.StepRunsDecodedOperation : Prop :=
  ∀ (s : State) (e : Issue) (rest : List Issue) (i : Instr),
    configOk s.cfg = true → s.Unfaulted → s.pending = e :: rest → decode e.word = .ok i → e.agent = i.agent →
    step s = exec i { s with op := e, pending := rest }

/-- R96: issuing an illegal word raises ILLEGAL_OP with the word as info and changes no other state, whichever agent issues it and
in every lifecycle phase; the all-zero word is illegal. -/
def Obligations.IllegalWordRaises : Prop :=
  (∀ (s : State) (e : Issue) (rest : List Issue),
    configOk s.cfg = true → s.Unfaulted → s.pending = e :: rest →
    (e.word.extractLsb' 24 8 ∉ ([0x01, 0x02, 0x03, 0x04, 0x05, 0x10, 0x11, 0x12, 0x13, 0x14, 0x15,
        0x20, 0x21, 0x22, 0x23, 0x24, 0x25] : List Byte) ∨
      e.word.extractLsb' 16 8 ≠ 0 ∨
      (e.word.extractLsb' 24 8 ≠ 0x03 ∧ e.word.extractLsb' 8 8 ≠ 0) ∨
      (e.word.extractLsb' 24 8 ≠ 0x04 ∧ e.word.extractLsb' 0 8 ≠ 0)) →
    step s = .next { s with op := e, pending := rest, fault := .illegalOp,
                            faultInfo := some { word := e.word, info := .int e.word.toNat } }) ∧
  decode 0 = .error .reservedOpcode

/-- R101: a legal word issued by the wrong agent raises WRONG_AGENT with the word as info, in every lifecycle phase. Only the timer
issues TICK and only the host issues the other sixteen. -/
def Obligations.WrongAgentRaises : Prop :=
  ∀ (s : State) (e : Issue) (rest : List Issue) (i : Instr),
    configOk s.cfg = true → s.Unfaulted → s.pending = e :: rest → decode e.word = .ok i →
    e.agent ≠ (if e.word.extractLsb' 24 8 = 0x03 then .timer else .host) →
    step s = .next { s with op := e, pending := rest, fault := .wrongAgent,
                            faultInfo := some { word := e.word, info := .int e.word.toNat } }

/-- R262: once `FAULT != NONE` no operation has a step, and in a checked configuration the step says so by name. -/
def Obligations.FaultedStateHasNoStep : Prop :=
  ∀ s : State, s.fault ≠ .none →
    (∀ t, step s ≠ .next t) ∧ (configOk s.cfg = true → step s = .fault (.faulted s.fault))

/-- R8 to R15: the checks a configuration must pass, on integers and rationals. A step under any other configuration is refused
(R21). -/
def Obligations.ConfigurationChecks : Prop :=
  (∀ c : Cfg, configOk c = true ↔
    (1 ≤ c.attackTime ∧ c.attackTime ≤ 65535 ∧
      |c.maxAmplitude - c.attackTime * ⌊(c.maxAmplitude : Rat) / c.attackTime⌋| ≤ 1) ∧
    (1 ≤ c.decayTime ∧ c.decayTime ≤ 65535 ∧
      |c.maxAmplitude - c.decayTime * ⌊(c.maxAmplitude : Rat) / c.decayTime⌋| ≤ 1) ∧
    (1 ≤ c.maxAmplitude ∧ c.maxAmplitude ≤ 32768) ∧
    (∀ e, c.attackTime + c.decayTime < c.duration e ∧ c.duration e ≤ 2 ^ 32 - 1) ∧
    ((c.law .descend).a = 0 ∧ (c.law .linearB).a = 0 ∧ (c.law .linearC).a = 0 ∧ (c.law .descend).b < 0 ∧
      (c.law .parabolaA).a ≠ 0 ∧ (c.law .parabolaB).a ≠ 0 ∧ c.law .parabolaB ≠ c.law .parabolaA) ∧
    (0 ≤ c.dcOffset ∧ c.dcOffset ≤ 65535 ∧ 0 ≤ c.peakAmplitude ∧ c.peakAmplitude * 2 ^ 15 < 2 ^ 31)) ∧
  (∀ s : State, configOk s.cfg = false → step s = .refused .configRefused)

/-- R20, R262: a fault is precise. Where an operation ends with a fault that was not there, nothing else has changed, and the info
register holds the operation's word. -/
def Obligations.FaultIsPrecise : Prop :=
  ∀ (i : Instr) (s t : State), s.Unfaulted → exec i s = .next t → t.fault ≠ .none →
    ∃ v, t = s.faulting t.fault v

/-- R263: which operation raises what, under a checked configuration; under the wrap policy FX_OVERFLOW is never raised. -/
def Obligations.WhichOperationRaisesWhat : Prop :=
  ∀ (i : Instr) (s t : State), configOk s.cfg = true → s.Unfaulted → exec i s = .next t → t.fault ≠ .none →
    t.fault ∈ faultsOf i ∧ (s.cfg.overflowPolicy = .wrap → t.fault ≠ .fxOverflow)

/-- R261: the numbers of the fault codes. -/
def Obligations.FaultCodeNumbers : Prop :=
  (FaultCode.none.code, FaultCode.illegalOp.code, FaultCode.fxOverflow.code, FaultCode.fxDivZero.code,
    FaultCode.fxFloatRange.code, FaultCode.freqRange.code) = (0, 1, 2, 3, 4, 5) ∧
  (FaultCode.tableRebuild.code, FaultCode.notReady.code, FaultCode.timerNotArmed.code, FaultCode.timerRearm.code,
    FaultCode.wrongAgent.code) = (6, 7, 8, 9, 10)

/-- R45, R46: the 8-bit tags that STATE holds, and what each value of TRIG requests: 3 and 8 to 255 name no effect, and 0 is no
request. -/
def Obligations.TagEncoding : Prop :=
  (SoundState.idle.tag = 0 ∧ (SoundState.playing (.tone .descend)).tag = 1 ∧
    (SoundState.playing (.tone .parabolaA)).tag = 2 ∧ (SoundState.playing .silent).tag = 4 ∧
    (SoundState.playing (.tone .linearB)).tag = 5 ∧ (SoundState.playing (.tone .linearC)).tag = 6 ∧
    (SoundState.playing (.tone .parabolaB)).tag = 7) ∧
  (effectOfTrig 1 = some (.tone .descend) ∧ effectOfTrig 2 = some (.tone .parabolaA) ∧ effectOfTrig 4 = some .silent ∧
    effectOfTrig 5 = some (.tone .linearB) ∧ effectOfTrig 6 = some (.tone .linearC) ∧
    effectOfTrig 7 = some (.tone .parabolaB)) ∧
  ∀ v : Byte, v ∉ ([1, 2, 4, 5, 6, 7] : List Byte) → effectOfTrig v = none

/-! ### Fixed-point unit (40_fixed_point.md) -/

/-- R122, R128: MUL15 and MUL28, by their words, respond `narrow32(floor(A*B / 2^F))` and write nothing, in every state. -/
def Obligations.MultiplyResponds : Prop :=
  (decode 0x10000000 = .ok .mul15 ∧ decode 0x20000000 = .ok .mul28) ∧ ∀ s : State,
    RespondsNarrowed .mul15 s ⌊((s.op.ports.a.toInt * s.op.ports.b.toInt : Int) : Rat) / 2 ^ 15⌋ ∧
    RespondsNarrowed .mul28 s ⌊((s.op.ports.a.toInt * s.op.ports.b.toInt : Int) : Rat) / 2 ^ 28⌋

/-- R123, R129: DIV15 and DIV28, by their words, raise FX_DIV_ZERO with the numerator on a zero divisor, and otherwise respond
`narrow32(trunc(A * 2^F / B))`. -/
def Obligations.DivideResponds : Prop :=
  (decode 0x11000000 = .ok .div15 ∧ decode 0x21000000 = .ok .div28) ∧ ∀ s : State,
    (s.op.ports.b.toInt = 0 →
      exec .div15 s = .next (s.faulting .fxDivZero (.int s.op.ports.a.toInt)) ∧
      exec .div28 s = .next (s.faulting .fxDivZero (.int s.op.ports.a.toInt))) ∧
    (s.op.ports.b.toInt ≠ 0 →
      RespondsNarrowed .div15 s
        (truncTowardZero ((s.op.ports.a.toInt : Rat) * 2 ^ 15 / (s.op.ports.b.toInt : Rat))) ∧
      RespondsNarrowed .div28 s
        (truncTowardZero ((s.op.ports.a.toInt : Rat) * 2 ^ 28 / (s.op.ports.b.toInt : Rat))))

/-- R124, R130: FROM_INT15 and FROM_INT28, by their words, respond `narrow32(A * 2^F)`; the product fits exactly for A in [-65536, 65535], and in
[-8, 7]. -/
def Obligations.FromIntResponds : Prop :=
  (decode 0x12000000 = .ok .fromInt15 ∧ decode 0x22000000 = .ok .fromInt28) ∧ ∀ s : State,
    RespondsNarrowed .fromInt15 s (s.op.ports.a.toInt * 2 ^ 15) ∧
    (InS32 (s.op.ports.a.toInt * 2 ^ 15) ↔ -65536 ≤ s.op.ports.a.toInt ∧ s.op.ports.a.toInt ≤ 65535) ∧
    RespondsNarrowed .fromInt28 s (s.op.ports.a.toInt * 2 ^ 28) ∧
    (InS32 (s.op.ports.a.toInt * 2 ^ 28) ↔ -8 ≤ s.op.ports.a.toInt ∧ s.op.ports.a.toInt ≤ 7)

/-- R125, R131: TO_INT15 and TO_INT28, by their words, respond `floor(A / 2^F)`, never fault, and stay in range. -/
def Obligations.ToIntResponds : Prop :=
  (decode 0x13000000 = .ok .toInt15 ∧ decode 0x23000000 = .ok .toInt28) ∧ ∀ s : State,
    (exec .toInt15 s = .next (s.responding (.int ⌊(s.op.ports.a.toInt : Rat) / 2 ^ 15⌋)) ∧
      -65536 ≤ ⌊(s.op.ports.a.toInt : Rat) / 2 ^ 15⌋ ∧ ⌊(s.op.ports.a.toInt : Rat) / 2 ^ 15⌋ ≤ 65535) ∧
    (exec .toInt28 s = .next (s.responding (.int ⌊(s.op.ports.a.toInt : Rat) / 2 ^ 28⌋)) ∧
      -8 ≤ ⌊(s.op.ports.a.toInt : Rat) / 2 ^ 28⌋ ∧ ⌊(s.op.ports.a.toInt : Rat) / 2 ^ 28⌋ ≤ 7)

/-- R126, R132: FROM_FLOAT15 and FROM_FLOAT28, by their words, respond `trunc(F * 2^k)` where it is in s32 and raise FX_FLOAT_RANGE with F where it
is not, under either overflow policy. -/
def Obligations.FromFloatResponds : Prop :=
  (decode 0x14000000 = .ok .fromFloat15 ∧ decode 0x24000000 = .ok .fromFloat28) ∧ ∀ s : State,
    (InS32 (truncTowardZero (s.op.ports.f * 2 ^ 15)) →
      exec .fromFloat15 s = .next (s.responding (.int (truncTowardZero (s.op.ports.f * 2 ^ 15))))) ∧
    (¬ InS32 (truncTowardZero (s.op.ports.f * 2 ^ 15)) →
      exec .fromFloat15 s = .next (s.faulting .fxFloatRange (.rat s.op.ports.f))) ∧
    (InS32 (truncTowardZero (s.op.ports.f * 2 ^ 28)) →
      exec .fromFloat28 s = .next (s.responding (.int (truncTowardZero (s.op.ports.f * 2 ^ 28))))) ∧
    (¬ InS32 (truncTowardZero (s.op.ports.f * 2 ^ 28)) →
      exec .fromFloat28 s = .next (s.faulting .fxFloatRange (.rat s.op.ports.f)))

/-- R127, R133: TO_FLOAT15 and TO_FLOAT28 respond A / 2^F exactly where TO_FLOAT_ROUNDING is exact; otherwise the raw value rounded
to binary32 over 2^F (log entry 11 says how, and Binary32RoundingIsNearestEven what that is). -/
def Obligations.ToFloatResponds : Prop :=
  ∀ s : State,
    (s.cfg.toFloatRounding = .exact →
      exec .toFloat15 s = .next (s.responding (.rat ((s.op.ports.a.toInt : Rat) / 2 ^ 15))) ∧
      exec .toFloat28 s = .next (s.responding (.rat ((s.op.ports.a.toInt : Rat) / 2 ^ 28)))) ∧
    (s.cfg.toFloatRounding = .binary32Rne →
      exec .toFloat15 s = .next (s.responding (.rat ((roundBinary32Raw s.op.ports.a.toInt : Rat) / 2 ^ 15))) ∧
      exec .toFloat28 s = .next (s.responding (.rat ((roundBinary32Raw s.op.ports.a.toInt : Rat) / 2 ^ 28))))

/-- The model's choice of log entry 11 for the `round_binary32_nearest_even` that R127 names: the result has at most 24 significand
bits, no value with at most 24 significand bits is nearer, and where another is as near the significand is even. -/
def Obligations.Binary32RoundingIsNearestEven : Prop :=
  ∀ x : Int, InS32 x →
    ∃ (m : Int) (k : Nat), |m| ≤ 2 ^ 24 ∧ roundBinary32Raw x = m * 2 ^ k ∧
      ∀ (m' : Int) (k' : Nat), |m'| ≤ 2 ^ 24 →
        |m * 2 ^ k - x| ≤ |m' * 2 ^ k' - x| ∧
        (|m * 2 ^ k - x| = |m' * 2 ^ k' - x| → m' * 2 ^ k' = m * 2 ^ k ∨ (2 ∣ m ∧ 2 ^ 23 ≤ |m|))

/-- R134: multiply by 1.0 and by 0, and commutativity, at either precision and under either policy. -/
def Obligations.MultiplyLaws : Prop :=
  ∀ (p : OverflowPolicy) (a b : Int), InS32 a → InS32 b →
    mul15 p a 32768 = .ok a ∧ mul15 p a 0 = .ok 0 ∧ mul15 p a b = mul15 p b a ∧
    mul28 p a (2 ^ 28) = .ok a ∧ mul28 p a 0 = .ok 0 ∧ mul28 p a b = mul28 p b a

/-- R135: the quotient truncates toward zero, so negating either operand negates it, whenever the result fits. -/
def Obligations.DivideSignSymmetry : Prop :=
  ∀ (a b r : Int), r ≠ -2 ^ 31 →
    (div15 .fault a b = .ok r → div15 .fault (-a) b = .ok (-r) ∧ div15 .fault a (-b) = .ok (-r)) ∧
    (div28 .fault a b = .ok r → div28 .fault (-a) b = .ok (-r) ∧ div28 .fault a (-b) = .ok (-r))

/-- R136: `to_float(from_float(v))` under exact lies within one least significant bit of v, on the side of v toward zero; and
`to_int15(from_int15(i)) = i` in range, likewise for fix28. -/
def Obligations.FixedPointRoundTrip : Prop :=
  (∀ (v : Rat) (r : Int), fromFloat15 v = .ok r →
    |toFloat15 .exact r - v| < 1 / 2 ^ 15 ∧ |toFloat15 .exact r| ≤ |v| ∧ 0 ≤ toFloat15 .exact r * v) ∧
  (∀ (v : Rat) (r : Int), fromFloat28 v = .ok r →
    |toFloat28 .exact r - v| < 1 / 2 ^ 28 ∧ |toFloat28 .exact r| ≤ |v| ∧ 0 ≤ toFloat28 .exact r * v) ∧
  (∀ i r : Int, (fromInt15 .fault i = .ok r → toInt15 r = i) ∧ (fromInt28 .fault i = .ok r → toInt28 r = i))

/-! ### Oscillator table (41_oscillator_table.md) -/

/-- R160, R165: what `SINE_TABLE_FN` gives at each index: `trunc(PEAK_AMPLITUDE * sin(2*pi*i/256) * 2^15)` on the exact real sine at
every peak, or the deployed table's entry. Where that is outside s32 it is FX_FLOAT_RANGE (R126). -/
def Obligations.SineTableFunction : Prop :=
  ∀ (c : Cfg) (r : Nat → Int) (i : Nat), SineValues c r → i < 256 →
    (InS32 (r i) → sineTableFn c i = .ok (r i)) ∧
    (¬ InS32 (r i) → ∃ q, sineTableFn c i = .error { code := .fxFloatRange, info := .rat q })

/-- R160, R161: from UNINIT, if every value of `SINE_TABLE_FN` is in s32, BUILD_TABLE completes: it writes that value at every index,
moves LIFECYCLE to READY, and changes nothing else; a canonical table stays canonical. -/
def Obligations.BuildTableBuilds : Prop :=
  ∀ (s : State) (r : Nat → Int), s.lifecycle = .uninit → SineValues s.cfg r → (∀ i, i < 256 → InS32 (r i)) →
    ∃ m : Memory, exec .buildTable s = .next { s with table := m, lifecycle := .ready } ∧
      (∀ i, i < 256 → Memory.read m i = some (BitVec.ofInt 32 (r i))) ∧
      (∀ i, 256 ≤ i → Memory.read m i = Memory.read s.table i) ∧
      (Memory.wf s.table = true → Memory.wf m = true)

/-- R161, R162: a second BUILD_TABLE raises TABLE_REBUILD with LIFECYCLE as info and writes nothing. -/
def Obligations.BuildTableRebuildRaises : Prop :=
  ∀ s : State,
    (s.lifecycle = .ready → exec .buildTable s = .next (s.faulting .tableRebuild (.int 1))) ∧
    (s.lifecycle = .running → exec .buildTable s = .next (s.faulting .tableRebuild (.int 2)))

/-- R161, R261: a value out of range aborts the whole BUILD_TABLE with FX_FLOAT_RANGE. At index 64, where the sine is 1, the info is
the peak; at the others, where `F` is no rational, it is the free value of log entry 8, and the statement says nothing of it. -/
def Obligations.BuildTableFloatRange : Prop :=
  ∀ (s : State) (r : Nat → Int) (k : Nat), s.lifecycle = .uninit → SineValues s.cfg r → k < 256 →
    (∀ i, i < k → InS32 (r i)) → ¬ InS32 (r k) →
    ∃ q, exec .buildTable s = .next (s.faulting .fxFloatRange (.rat q)) ∧ (k = 64 → q = s.cfg.peakAmplitude)

/-- R15, R137, R161, R165: under a checked configuration every value of `SINE_TABLE_FN` is in s32, so BUILD_TABLE from UNINIT never
faults, whatever the kind of the table. -/
def Obligations.CheckedBuildNeverFaults : Prop :=
  (∀ (c : Cfg) (r : Nat → Int), configOk c = true → SineValues c r → ∀ i, i < 256 → InS32 (r i)) ∧
  ∀ s : State, configOk s.cfg = true → s.lifecycle = .uninit →
    ∃ t, exec .buildTable s = .next t ∧ t.fault = s.fault ∧ t.lifecycle = .ready

/-- R72, R162: the table is written by the BUILD_TABLE that finds LIFECYCLE = UNINIT, and by no other operation. -/
def Obligations.TableWrittenOnlyByFirstBuild : Prop :=
  ∀ (i : Instr) (s t : State), exec i s = .next t → (i ≠ .buildTable ∨ s.lifecycle ≠ .uninit) →
    ∀ k, Memory.read t.table k = Memory.read s.table k

/-- R166, R167: the reference table has 256 entries, its stated values and symmetries, and sum 0; it is what `SINE_TABLE_FN` of the
reference configuration, the exact sine at peak 2047, gives; and its full-amplitude samples are those of R167. -/
def Obligations.ReferenceTableProperties : Prop :=
  refTable.length = 256 ∧
  (refTable.getD 0 1, refTable.getD 128 1, refTable.getD 64 0, refTable.getD 192 0) = (0, 0, 67076096, -67076096) ∧
  (∀ i, i < 256 → 1 ≤ i → refTable.getD (256 - i) 1 = -refTable.getD i 1) ∧
  (∀ i, i < 65 → refTable.getD (128 - i) 1 = refTable.getD i 1) ∧
  refTable.sum = 0 ∧
  (∀ i, i < 256 → sineTableFn Cfg.reference i = .ok (refTable.getD i 0)) ∧
  [0, 32, 64, 96, 128, 160, 192, 224].map (fun i => toInt15 (refTable.getD i 0) + 2048) =
    [2048, 3495, 4095, 3495, 2048, 600, 1, 600]

/-! ### Trigger Flag, timer arming, diagnostic record -/

/-- R217: without a collision WRITE_TRIGGER stores its value, clears included, and changes nothing else. -/
def Obligations.WriteTriggerStores : Prop :=
  ∀ (s : State) (v : Nat), v < 256 → (s.trig = 0 ∨ v = 0 ∨ s.trig = BitVec.ofNat 8 v) →
    exec (.writeTrigger v) s = .next { s with trig := BitVec.ofNat 8 v }

/-- R217, R218: on a collision TRIG holds the old value or the new one, and nothing else of the block changes. Which of the two is
the free value of log entry 6, and the draw counter is the model's own. -/
def Obligations.WriteTriggerCollision : Prop :=
  ∀ (s : State) (v : Nat), v < 256 → s.trig ≠ 0 → v ≠ 0 → s.trig ≠ BitVec.ofNat 8 v →
    ∃ u, (u = s.trig ∨ u = BitVec.ofNat 8 v) ∧
      exec (.writeTrigger v) s = .next { s with trig := u, draws := s.draws + 1 }

/-- R241: START_TIMER in its three lifecycle phases. -/
def Obligations.StartTimerArms : Prop :=
  ∀ s : State,
    (s.lifecycle = .ready → exec .startTimer s = .next { s with lifecycle := .running }) ∧
    (s.lifecycle = .uninit → exec .startTimer s = .next (s.faulting .notReady (.int 0))) ∧
    (s.lifecycle = .running → exec .startTimer s = .next (s.faulting .timerRearm (.int 2)))

/-- R243: READ_DIAG responds LAST_CTX in every state and writes nothing. -/
def Obligations.ReadDiagResponds : Prop :=
  ∀ s : State, exec .readDiag s = .next (s.responding (.int s.lastCtx.toNat))

/-! ### TICK: the sound state machine (43_sound_state_machine.md, 44_scheduler.md) -/

/-- R242: a TICK before the timer is armed raises TIMER_NOT_ARMED with LIFECYCLE as info. -/
def Obligations.TickNotArmedRaises : Prop :=
  ∀ (s : State) (ctx : Nat),
    (s.lifecycle = .uninit → exec (.tick ctx) s = .next (s.faulting .timerNotArmed (.int 0))) ∧
    (s.lifecycle = .ready → exec (.tick ctx) s = .next (s.faulting .timerNotArmed (.int 1)))

/-- R212: a TICK in IDLE. A trigger in {1, 2, 4, 5, 6, 7} starts that effect, with the elapsed count, the amplitude and the trigger
cleared and the phase kept; any other trigger is neither acted on nor cleared (R219). Either way the quiet sample is emitted if
QUIET_TICK_WRITES, LAST_CTX is recorded (R242), and nothing else changes. -/
def Obligations.IdleTick : Prop :=
  ∀ (s : State) (ctx : Nat), ctx < 256 → s.lifecycle = .running → s.voice0.state = .idle →
    (∀ e : Effect, s.trig = (SoundState.playing e).tag →
      exec (.tick ctx) s = .next { s with
        voice0 := { state := .playing e, phase := s.voice0.phase, amp := 0, elapsed := 0 }, trig := 0,
        out := s.out ++ (if s.cfg.quietTickWrites then [BitVec.ofInt 16 s.cfg.dcOffset] else []),
        lastCtx := BitVec.ofNat 32 ctx }) ∧
    (s.trig ∉ ([1, 2, 4, 5, 6, 7] : List Byte) →
      exec (.tick ctx) s = .next { s with
        out := s.out ++ (if s.cfg.quietTickWrites then [BitVec.ofInt 16 s.cfg.dcOffset] else []),
        lastCtx := BitVec.ofNat 32 ctx })

/-- R214, R215: a TICK in the silent effect emits the quiet sample if QUIET_TICK_WRITES, counts one sample, and returns to IDLE when
the count reaches the duration, clearing the count, the amplitude and the trigger; the phase is not changed. -/
def Obligations.SilentTick : Prop :=
  ∀ (s : State) (ctx : Nat), configOk s.cfg = true → ctx < 256 → s.lifecycle = .running →
    s.voice0.state = .playing .silent →
    exec (.tick ctx) s = .next { s with
      voice0 := if s.voice0.elapsed.toNat + 1 = s.cfg.duration .silent
        then { state := .idle, phase := s.voice0.phase, amp := 0, elapsed := 0 }
        else { s.voice0 with elapsed := s.voice0.elapsed + 1 },
      trig := if s.voice0.elapsed.toNat + 1 = s.cfg.duration .silent then 0 else s.trig,
      out := s.out ++ (if s.cfg.quietTickWrites then [BitVec.ofInt 16 s.cfg.dcOffset] else []),
      lastCtx := BitVec.ofNat 32 ctx }

/-- R180 (with R181 to R188, R213, R215): a TICK in a tone effect, its whole next state. The law is evaluated at the elapsed count
before the increment; the lookup reads the phase after the accumulation; the sample uses the amplitude before the envelope's update;
the envelope attacks, then decays, then holds; the completion test comes last. -/
def Obligations.ToneTick : Prop :=
  ∀ (s : State) (ctx : Nat) (t : Tone) (raw : Word) (x : Nat) (f : Rat) (phase : Word) (amp p : Int),
    configOk s.cfg = true → ctx < 256 → s.lifecycle = .running → s.voice0.state = .playing (.tone t) →
    x = s.voice0.elapsed.toNat →
    f = (s.cfg.law t).a * x ^ 2 + (s.cfg.law t).b * x + (s.cfg.law t).c → 0 ≤ f → f < 20000 →
    phase = BitVec.ofNat 32 (s.voice0.phase.toNat + (phaseInc s.cfg f).toNat) →
    Memory.read s.table (phase.toNat / 2 ^ 24) = some raw →
    p = ⌊((s.voice0.amp.toInt * raw.toInt : Int) : Rat) / 2 ^ 15⌋ → InS32 p →
    amp = (if x < s.cfg.attackTime then s.voice0.amp.toInt + ⌊(s.cfg.maxAmplitude : Rat) / s.cfg.attackTime⌋
      else if (x : Int) > s.cfg.duration (.tone t) - s.cfg.decayTime
        then s.voice0.amp.toInt - ⌊(s.cfg.maxAmplitude : Rat) / s.cfg.decayTime⌋
      else s.voice0.amp.toInt) → InS32 amp →
    exec (.tick ctx) s = .next { s with
      voice0 := if x + 1 = s.cfg.duration (.tone t)
        then { state := .idle, phase := phase, amp := 0, elapsed := 0 }
        else { state := .playing (.tone t), phase := phase, amp := BitVec.ofInt 32 amp,
               elapsed := BitVec.ofNat 32 (x + 1) },
      trig := if x + 1 = s.cfg.duration (.tone t) then 0 else s.trig,
      out := s.out ++ [BitVec.ofInt 16 (⌊(p : Rat) / 2 ^ 15⌋ + s.cfg.dcOffset)],
      lastCtx := BitVec.ofNat 32 ctx }

/-- R182: a tone tick whose law leaves [0, 20000) raises FREQ_RANGE with the frequency as info, before anything else is done. -/
def Obligations.ToneTickFrequencyRange : Prop :=
  ∀ (s : State) (ctx : Nat) (t : Tone) (x : Nat) (f : Rat), s.lifecycle = .running →
    s.voice0.state = .playing (.tone t) → x = s.voice0.elapsed.toNat →
    f = (s.cfg.law t).a * x ^ 2 + (s.cfg.law t).b * x + (s.cfg.law t).c → (f < 0 ∨ 20000 ≤ f) →
    exec (.tick ctx) s = .next (s.faulting .freqRange (.rat f))

/-- R137, R193: in a checked configuration and a state that meets the invariant, an armed TICK always answers a next state, and the
only fault it can raise is FREQ_RANGE, in a tone effect whose law leaves the range there. -/
def Obligations.CheckedTickCompletes : Prop :=
  ∀ (s : State) (ctx : Nat), configOk s.cfg = true → s.Inv → s.Unfaulted → s.lifecycle = .running → ctx < 256 →
    ∃ t, exec (.tick ctx) s = .next t ∧
      ((t.fault = .none ∧ t.lastCtx = BitVec.ofNat 32 ctx) ∨
       (t.fault = .freqRange ∧ ∃ tone, s.voice0.state = .playing (.tone tone) ∧
          audible (evalLaw (s.cfg.law tone) s.voice0.elapsed.toNat) = false))

/-- R183: the reference phase increment is `floor(f * 67108864 / 625)` and below 2^31 for every frequency in the checked range. -/
def Obligations.ReferencePhaseIncrement : Prop :=
  ∀ (c : Cfg) (f : Rat), c.phaseIncFn = .exactFloor → 0 ≤ f → f < 20000 →
    ((phaseInc c f).toNat : Int) = ⌊f * 67108864 / 625⌋ ∧ (phaseInc c f).toNat < 2 ^ 31

/-- R194: the new phase is the sum modulo 2^32, so `acc(2^32 - 1 - k, inc) = acc(0, inc - k - 1)` for 0 <= k <= inc - 1. -/
def Obligations.PhaseModularity : Prop :=
  (∀ p inc : Word, (accumulate p inc).toNat = (p.toNat + inc.toNat) % 2 ^ 32) ∧
  ∀ (k : Nat) (inc : Word), k + 1 ≤ inc.toNat →
    accumulate (BitVec.ofNat 32 (2 ^ 32 - 1 - k)) inc = accumulate 0 (BitVec.ofNat 32 (inc.toNat - k - 1))

/-- R193: the amplitude lies in [0, MAX_AMPLITUDE] in every state that meets the invariant, under a checked configuration. -/
def Obligations.AmplitudeRange : Prop :=
  ∀ s : State, configOk s.cfg = true → s.Inv →
    0 ≤ s.voice0.amp.toInt ∧ s.voice0.amp.toInt ≤ s.cfg.maxAmplitude

/-- R190 to R192: attack, sustain and decay. In a state that meets the invariant, with `x` tone ticks of effect `t` done, the
amplitude is `x` attack increments, then all of them, then less one decay increment for each tick past `DURATION - DECAY_TIME`; the
increments are the floors of `MAX_AMPLITUDE` over the two times. -/
def Obligations.EnvelopeShape : Prop :=
  ∀ (s : State) (t : Tone) (x : Nat), configOk s.cfg = true → s.Inv → s.voice0.state = .playing (.tone t) →
    x = s.voice0.elapsed.toNat →
    (x ≤ s.cfg.attackTime → s.voice0.amp.toInt = x * ⌊(s.cfg.maxAmplitude : Rat) / s.cfg.attackTime⌋) ∧
    (s.cfg.attackTime ≤ x → x ≤ s.cfg.duration (.tone t) - s.cfg.decayTime + 1 →
      s.voice0.amp.toInt = s.cfg.attackTime * ⌊(s.cfg.maxAmplitude : Rat) / s.cfg.attackTime⌋) ∧
    (s.cfg.duration (.tone t) - s.cfg.decayTime + 1 ≤ x →
      s.voice0.amp.toInt = s.cfg.attackTime * ⌊(s.cfg.maxAmplitude : Rat) / s.cfg.attackTime⌋
        - ((x : Int) - (s.cfg.duration (.tone t) - s.cfg.decayTime + 1))
          * ⌊(s.cfg.maxAmplitude : Rat) / s.cfg.decayTime⌋)

/-- R7, R45, R195: the range of the law of the effect with tag 2, which is the same under every configuration. -/
def Obligations.TagTwoLawRange : Prop :=
  ∀ (c : Cfg) (t : Tone), (SoundState.playing (.tone t)).tag = 2 →
    evalLaw (c.law t) 0 = 1010 ∧ evalLaw (c.law t) 2000 = 1005 ∧
    (∀ x : Nat, x ≤ 2416 → 0 ≤ evalLaw (c.law t) x ∧ evalLaw (c.law t) x < 20000) ∧
    (∀ x : Nat, 2417 ≤ x → evalLaw (c.law t) x < 0)

/-- R196: under the reference output constants and table, every tone sample lies in [1, 4095] and the quiet sample is 2048. -/
def Obligations.ReferenceOutputRange : Prop :=
  ∀ (c : Cfg) (amp : Int) (i : Nat), c.dcOffset = 2048 → 0 ≤ amp → amp ≤ 32768 → i < 256 →
    quietSample c = 2048 ∧
    ∃ x, outputSample c amp (refTable.getD i 0) = .ok x ∧ 1 ≤ x.toNat ∧ x.toNat ≤ 4095

/-- R216: no retriggering. While an effect plays, a TICK does the same to the voice, the sink, the diagnostic record and the faults
whatever value TRIG holds, and it leaves that value or clears it. -/
def Obligations.NoRetriggering : Prop :=
  ∀ (s t : State) (ctx : Nat) (v : Byte), s.voice0.state ≠ .idle → exec (.tick ctx) s = .next t →
    ∃ u, exec (.tick ctx) { s with trig := v } = .next u ∧
      u = { t with trig := u.trig } ∧ (u.trig = v ∨ u.trig = 0)

/-- R275: which context serves a TICK changes only LAST_CTX. -/
def Obligations.ContextChangesOnlyDiagnostics : Prop :=
  ∀ (s t : State) (c d : Nat), exec (.tick c) s = .next t →
    ∃ u, exec (.tick d) s = .next u ∧ u = { t with lastCtx := u.lastCtx }

/-- R221: if `STATE[0] = IDLE` and `TRIG = 0`, then after WRITE_TRIGGER of a valid effect the next TICK enters it. -/
def Obligations.TriggerLatency : Prop :=
  ∀ (s : State) (e : Effect) (ctx : Nat), s.lifecycle = .running → s.voice0.state = .idle → s.trig = 0 →
    ∃ t u, exec (.writeTrigger (SoundState.playing e).tag.toNat) s = .next t ∧ exec (.tick ctx) t = .next u ∧
      u.voice0.state = .playing e ∧ u.voice0.elapsed = 0 ∧ u.voice0.amp = 0 ∧ u.trig = 0 ∧
      u.voice0.phase = s.voice0.phase

/-! ### Frames and whole-machine rules -/

/-- R44: access rights. An operation other than TICK leaves voice 0, OUT and LAST_CTX alone; only WRITE_TRIGGER and TICK change
TRIG; only BUILD_TABLE and START_TIMER change LIFECYCLE; no operation changes voice 1 (R36), the configuration (R30), or what is
still to be performed. -/
def Obligations.AccessRights : Prop :=
  ∀ (i : Instr) (s t : State), exec i s = .next t →
    ((∀ c, i ≠ .tick c) → t.voice0 = s.voice0 ∧ t.out = s.out ∧ t.lastCtx = s.lastCtx) ∧
    ((∀ c, i ≠ .tick c) → (∀ v, i ≠ .writeTrigger v) → t.trig = s.trig) ∧
    (i ≠ .buildTable → i ≠ .startTimer → t.lifecycle = s.lifecycle) ∧
    t.voice1 = s.voice1 ∧ t.cfg = s.cfg ∧ t.op = s.op ∧ t.pending = s.pending

/-- R38, R36, R44: nothing but READ_DIAG reads LAST_CTX, and nothing reads voice 1. Any operation, run with other values in voice 1
and, if it is not READ_DIAG, in LAST_CTX, does the same to everything else, and LAST_CTX is kept or gets what it would have got. -/
def Obligations.DiagnosticsAndVoiceOneNotRead : Prop :=
  ∀ (i : Instr) (s t : State) (c : Word) (v : Voice), (i = .readDiag → c = s.lastCtx) → exec i s = .next t →
    ∃ u, exec i { s with lastCtx := c, voice1 := v } = .next u ∧ u = { t with lastCtx := u.lastCtx, voice1 := v } ∧
      (u.lastCtx = t.lastCtx ∨ (u.lastCtx = c ∧ t.lastCtx = s.lastCtx))

/-- R121, R43: the twelve fixed-point operations and READ_DIAG change nothing of the block but, where they fault, the two fault
registers; a fault brings no response, and otherwise there is exactly one. -/
def Obligations.RespondingOperationsWriteNoState : Prop :=
  ∀ (i : Instr) (s : State),
    i ∈ [Instr.mul15, .div15, .fromInt15, .toInt15, .fromFloat15, .toFloat15,
         .mul28, .div28, .fromInt28, .toInt28, .fromFloat28, .toFloat28, .readDiag] →
    (∃ v, exec i s = .next (s.responding v)) ∨ (∃ code v, code ≠ .none ∧ exec i s = .next (s.faulting code v))

/-- R40, R189, R223: only TICK emits, at most one sample and at the end of OUT; an unfaulted TICK under QUIET_TICK_WRITES emits
exactly one. -/
def Obligations.OneSamplePerTick : Prop :=
  ∀ (i : Instr) (s t : State), exec i s = .next t →
    (t.out = s.out ∨ ∃ c x, i = .tick c ∧ t.out = s.out ++ [x]) ∧
    (∀ c, i = .tick c → s.cfg.quietTickWrites = true → s.lifecycle = .running → s.Unfaulted → t.Unfaulted →
      ∃ x, t.out = s.out ++ [x])

/-- R39: LIFECYCLE moves only from UNINIT to READY, by BUILD_TABLE, and from READY to RUNNING, by START_TIMER. -/
def Obligations.LifecycleMovesForward : Prop :=
  ∀ (i : Instr) (s t : State), exec i s = .next t →
    t.lifecycle = s.lifecycle ∨
    (i = .buildTable ∧ s.lifecycle = .uninit ∧ t.lifecycle = .ready) ∨
    (i = .startTimer ∧ s.lifecycle = .ready ∧ t.lifecycle = .running)

/-- The invariant of the block (R34 to R36, R39, R41, R42, R81, R190 to R193, R220): every step keeps it. -/
def Obligations.StepKeepsInvariant : Prop :=
  ∀ s t : State, s.Inv → step s = .next t → t.Inv

/-- The invariant holds right after reset, under every configuration. -/
def Obligations.ResetMeetsInvariant : Prop :=
  (∀ c : Cfg, (State.resetWith c).Inv) ∧ State.reset.Inv

/-- R50: every element of the block's state at reset, under every configuration, which reset does not change (R290). -/
def Obligations.ResetValues : Prop :=
  ∀ c : Cfg,
    (State.resetWith c).voice0 = { state := .idle, phase := 0, amp := 0, elapsed := 0 } ∧
    (State.resetWith c).voice1 = { state := .idle, phase := 0, amp := 0, elapsed := 0 } ∧
    (State.resetWith c).trig = 0 ∧ (State.resetWith c).lastCtx = 0 ∧
    (State.resetWith c).lifecycle = .uninit ∧ (State.resetWith c).lifecycle.code = 0 ∧
    (∀ i, Memory.read (State.resetWith c).table i = none) ∧
    (State.resetWith c).fault = .none ∧ (State.resetWith c).faultInfo = none ∧
    (State.resetWith c).out = [] ∧ (State.resetWith c).cfg = c

/-! ### The effect timeline (R220) -/

/-- R220, first part, with any host operations that do not fault anywhere between the ticks. From a state that meets the invariant, in IDLE with a
trigger naming effect `e` whose law stays in range, a run that begins with a TICK and holds `j + 1` TICKs, `j < DURATION[e]`, is
still in effect `e`, with elapsed count `j` and no fault. -/
def Obligations.EffectTimeline : Prop :=
  ∀ (s : State) (e : Effect) (first : Issue) (l : List Issue) (j : Nat),
    configOk s.cfg = true → s.Inv → s.Unfaulted → s.lifecycle = .running → s.voice0.state = .idle →
    s.trig = (SoundState.playing e).tag → LawInRange s.cfg e →
    IsTick first → (∀ x ∈ l, IsTick x ∨ HostCompletes s.cfg x) → tickCount l = j → j < s.cfg.duration e →
    ∃ t, s.run (first :: l) = .next t ∧ t.Unfaulted ∧ t.voice0.state = .playing e ∧ t.voice0.elapsed.toNat = j

/-- R220, last part: the TICK numbered `DURATION[e]` returns to IDLE with the elapsed count, the amplitude and the trigger cleared,
whatever operations that do not fault the host performed meanwhile, its writes to TRIG included (R222). -/
def Obligations.EffectReturnsAtDuration : Prop :=
  ∀ (s : State) (e : Effect) (first last : Issue) (l : List Issue),
    configOk s.cfg = true → s.Inv → s.Unfaulted → s.lifecycle = .running → s.voice0.state = .idle →
    s.trig = (SoundState.playing e).tag → LawInRange s.cfg e →
    IsTick first → IsTick last → (∀ x ∈ l, IsTick x ∨ HostCompletes s.cfg x) → tickCount l + 1 = s.cfg.duration e →
    ∃ t, s.run (first :: (l ++ [last])) = .next t ∧ t.Unfaulted ∧ t.voice0.state = .idle ∧
      t.voice0.elapsed = 0 ∧ t.voice0.amp = 0 ∧ t.trig = 0

/-- R103: `TICKS n, c` expands to n copies of `TICK c` from the timer, and `BOOT` to BUILD_TABLE followed by START_TIMER from the
host. -/
def Obligations.PseudoOperationsExpand : Prop :=
  (∀ n c : Nat, (Line.ticks n c).assemble.length = n ∧
    ∀ x ∈ (Line.ticks n c).assemble, (Line.op .timer (.tick c) noPorts).assemble = [x]) ∧
  Line.boot.assemble = (Line.op .host .buildTable noPorts).assemble ++ (Line.op .host .startTimer noPorts).assemble
end

