-- ==== Sys2Proof/Laws/FixedPoint.lean ====
section
/-! SUPPORT. What the pure functions of the fixed-point unit can answer. -/

namespace Sys2Proof.Machine

theorem fitsS32_iff (v : Int) : fitsS32 v = true ↔ -2 ^ 31 ≤ v ∧ v ≤ 2 ^ 31 - 1 := by
  unfold fitsS32; rw [decide_eq_true_iff]

theorem narrow32_of_fits {p : OverflowPolicy} {v : Int} (h : fitsS32 v = true) : narrow32 p v = .ok v := by
  unfold narrow32; rw [if_pos h]

theorem narrow32_fault {v : Int} (h : fitsS32 v = false) :
    narrow32 .fault v = .error { code := .fxOverflow, info := .int v } := by
  unfold narrow32; rw [if_neg (by simp [h])]

theorem narrow32_wrap {v : Int} (h : fitsS32 v = false) : narrow32 .wrap v = .ok (wrapS32 v) := by
  unfold narrow32; rw [if_neg (by simp [h])]

theorem wrapS32_fits (v : Int) : fitsS32 (wrapS32 v) = true := by
  rw [fitsS32_iff]; unfold wrapS32; omega

theorem wrapS32_of_fits {v : Int} (h : fitsS32 v = true) : wrapS32 v = v := by
  rw [fitsS32_iff] at h; unfold wrapS32; omega

/-- Whatever narrowing answers is in s32. -/
theorem narrow32_ok_fits {p : OverflowPolicy} {v r : Int} (h : narrow32 p v = .ok r) : fitsS32 r = true := by
  unfold narrow32 at h
  split at h
  · next hf => cases h; exact hf
  · cases p with
    | fault => cases h
    | wrap => cases h; exact wrapS32_fits v

/-- Narrowing's one fault. -/
theorem narrow32_error {p : OverflowPolicy} {v : Int} {r : Raise} (h : narrow32 p v = .error r) :
    r = { code := .fxOverflow, info := .int v } := by
  unfold narrow32 at h
  split at h
  · cases h
  · cases p with
    | fault => cases h; rfl
    | wrap => cases h

theorem mulFx_error {n : Nat} {p : OverflowPolicy} {a b : Int} {r : Raise} (h : mulFx n p a b = .error r) :
    r.code = .fxOverflow := by rw [narrow32_error h]

theorem fromIntFx_error {n : Nat} {p : OverflowPolicy} {i : Int} {r : Raise} (h : fromIntFx n p i = .error r) :
    r.code = .fxOverflow := by rw [narrow32_error h]

theorem divFx_error {n : Nat} {p : OverflowPolicy} {a b : Int} {r : Raise} (h : divFx n p a b = .error r) :
    r.code = .fxDivZero ∨ r.code = .fxOverflow := by
  unfold divFx at h
  split at h
  · cases h; exact .inl rfl
  · exact .inr (by rw [narrow32_error h])

theorem fromFloatFx_error {n : Nat} {v : Rat} {r : Raise} (h : fromFloatFx n v = .error r) : r.code = .fxFloatRange := by
  unfold fromFloatFx at h
  split at h
  · cases h
  · cases h; rfl

theorem fromFloatFx_of_fits {n : Nat} {v : Rat} (h : fitsS32 (scaleTrunc n v) = true) :
    fromFloatFx n v = .ok (scaleTrunc n v) := by
  unfold fromFloatFx; rw [if_pos h]

theorem fromFloatFx_of_not_fits {n : Nat} {v : Rat} (h : fitsS32 (scaleTrunc n v) = false) :
    fromFloatFx n v = .error { code := .fxFloatRange, info := .rat v } := by
  unfold fromFloatFx; rw [if_neg (by simp [h])]

theorem fromFloatFx_ok {n : Nat} {v : Rat} {r : Int} (h : fromFloatFx n v = .ok r) :
    r = scaleTrunc n v ∧ fitsS32 r = true := by
  unfold fromFloatFx at h
  split at h
  · next hf => cases h; exact ⟨rfl, hf⟩
  · cases h

/-- A register that holds an s32 value reads back as it. -/
theorem toReg_toInt {v : Int} (h : fitsS32 v = true) : (toReg v).toInt = v := by
  rw [fitsS32_iff] at h
  unfold toReg
  rw [BitVec.toInt_ofInt, Int.bmod_def]
  omega

/-- A register read as signed is in s32. -/
theorem toInt_fits (w : Word) : fitsS32 w.toInt = true := by
  rw [fitsS32_iff]
  have h1 := BitVec.toInt_lt (x := w)
  have h2 := BitVec.le_toInt (x := w)
  simp only [show (32 : Nat) - 1 = 31 from rfl] at h1 h2
  omega

/-! ### The spec's floors and truncations over the rationals -/

theorem inS32_iff (v : Int) : InS32 v ↔ fitsS32 v = true := by
  rw [fitsS32_iff]; unfold InS32; omega

theorem floor_div_nat (a : Int) (n : Nat) : ⌊(a : Rat) / (n : Rat)⌋ = a / (n : Int) := Rat.floor_intCast_div_natCast a n

/-- `a >> n` is `floor(a / 2^n)` (00_scope.md R18). -/
theorem floor_eq_sar (a : Int) (n : Nat) : ⌊(a : Rat) / 2 ^ n⌋ = sar a n := by
  have := floor_div_nat a (2 ^ n)
  push_cast at this
  exact this

theorem trunc_div_nat (a : Int) {n : Nat} (hn : 0 < n) : truncTowardZero ((a : Rat) / (n : Rat)) = a.tdiv n := by
  have hq : (0 : Rat) < n := by exact_mod_cast hn
  unfold truncTowardZero
  split
  · next h =>
    have ha : 0 ≤ a := by
      by_contra hc
      have : (a : Rat) < 0 := by exact_mod_cast not_le.mp hc
      exact absurd h (not_le.mpr (div_neg_of_neg_of_pos this hq))
    rw [floor_div_nat, Int.tdiv_eq_ediv_of_nonneg ha]
  · next h =>
    have ha : a < 0 := by
      by_contra hc
      have : (0 : Rat) ≤ a := by exact_mod_cast not_lt.mp hc
      exact h (div_nonneg this hq.le)
    have : (a : Rat) / n = -(((-a : Int) : Rat) / n) := by push_cast; ring
    rw [this, Int.ceil_neg, floor_div_nat, ← Int.tdiv_eq_ediv_of_nonneg (by omega), Int.neg_tdiv, neg_neg]

/-- A quotient truncated toward zero is Lean's `tdiv`. -/
theorem trunc_div (a b : Int) (hb : b ≠ 0) : truncTowardZero ((a : Rat) / b) = a.tdiv b := by
  rcases lt_or_gt_of_ne hb with h | h
  · obtain ⟨n, hn⟩ := Int.eq_ofNat_of_zero_le (show 0 ≤ -b by omega)
    have hb' : b = -(n : Int) := by omega
    rw [hb', show (a : Rat) / ((-(n : Int) : Int) : Rat) = ((-a : Int) : Rat) / (n : Rat) by
      push_cast; rw [div_neg, neg_div], trunc_div_nat (-a) (by omega), Int.neg_tdiv, Int.tdiv_neg]
  · obtain ⟨n, hn⟩ := Int.eq_ofNat_of_zero_le h.le
    subst hn
    simpa using trunc_div_nat a (by omega)

/-- `trunc(v * 2^k)` as the model computes it. -/
theorem trunc_eq_scaleTrunc (k : Nat) (v : Rat) : truncTowardZero (v * 2 ^ k) = scaleTrunc k v := by
  unfold scaleTrunc
  rw [← trunc_div _ _ (by exact_mod_cast v.den_nz)]
  congr 1
  push_cast
  conv_lhs => rw [← Rat.num_div_den v]
  ring

/-- An operation that responds `narrow32(q)` (R19). -/
theorem respondsNarrowed_of {i : Instr} {s : State} {q : Int}
    (h : exec i s = s.respondWith (intResponse (narrow32 s.cfg.overflowPolicy q))) : RespondsNarrowed i s q := by
  unfold RespondsNarrowed
  simp only [inS32_iff, h]
  refine ⟨?_, ?_, ?_⟩
  · intro hf; rw [narrow32_of_fits hf]; rfl
  · intro hf hp; rw [hp, narrow32_fault (by simpa using hf)]; rfl
  · intro hf hp; rw [hp, narrow32_wrap (by simpa using hf)]; rfl

end Sys2Proof.Machine
end

