-- ==== Sys2Proof/Laws/Config.lean ====
section
/-! SUPPORT. What a checked configuration gives: the increments' values and the amplitude's range (00_scope.md R8 to R13). -/

namespace Sys2Proof.Machine

/-- The seven checks, taken apart. -/
theorem configOk_iff (c : Cfg) : configOk c = true ↔
    checkRamp c c.attackTime = true ∧ checkRamp c c.decayTime = true ∧ checkAmplitude c = true ∧
    checkDurations c = true ∧ checkLaws c = true ∧ checkOutput c = true := by
  have hg : checkGeometry Config.tableSize Config.indexShift Config.phaseBits = true := by decide
  simp [configOk, hg, and_assoc]

theorem checkAmplitude_iff (c : Cfg) : checkAmplitude c = true ↔ 1 ≤ c.maxAmplitude ∧ c.maxAmplitude ≤ 32768 := by
  simp [checkAmplitude]

theorem checkDurations_duration {c : Cfg} (h : checkDurations c = true) (e : Effect) :
    c.attackTime + c.decayTime < c.duration e ∧ c.duration e ≤ 2 ^ 32 - 1 := by
  have key : ∀ e, checkDuration c e = true := by
    simp only [checkDurations, Bool.and_eq_true] at h
    intro e
    rcases e with t | _
    · cases t <;> simp [h]
    · simp [h]
  simpa [checkDuration] using key e

/-- A ramp that passes its check has the increment `floor(MAX_AMPLITUDE / time)` (R190), within the ±1 sizing (R10, R11). -/
theorem rampInc_of_check {c : Cfg} {time : Nat} (h : checkRamp c time = true) (ha : checkAmplitude c = true) :
    1 ≤ time ∧ time ≤ 65535 ∧ rampInc c time = .ok (c.maxAmplitude / time) ∧
      (c.maxAmplitude - time * (c.maxAmplitude / time)).natAbs ≤ 1 := by
  obtain ⟨hm1, hm2⟩ := (checkAmplitude_iff c).mp ha
  simp only [checkRamp, Bool.and_eq_true, decide_eq_true_eq] at h
  obtain ⟨⟨h1, h2⟩, h3⟩ := h
  have hinc : rampInc c time = .ok (c.maxAmplitude / time) := by
    have hd : fromInt15 c.overflowPolicy time = .ok ((time : Int) * 2 ^ 15) :=
      narrow32_of_fits ((fitsS32_iff _).mpr (by omega))
    have hq : (c.maxAmplitude * 2 ^ 15).tdiv ((time : Int) * 2 ^ 15) = c.maxAmplitude / time := by
      rw [Int.mul_tdiv_mul_of_pos_left _ _ (by norm_num), Int.tdiv_eq_ediv_of_nonneg (by omega)]
    have hle : c.maxAmplitude / (time : Int) ≤ c.maxAmplitude := Int.ediv_le_self _ (by omega)
    have hge : 0 ≤ c.maxAmplitude / (time : Int) := Int.ediv_nonneg (by omega) (by omega)
    have hf : fitsS32 (c.maxAmplitude / (time : Int)) = true := (fitsS32_iff _).mpr (by omega)
    simp only [rampInc, hd, div15, divFx]
    rw [if_neg (by omega), hq, narrow32_of_fits hf]
  rw [hinc] at h3
  exact ⟨h1, h2, hinc, by simpa using h3⟩

/-- Both increments, as floors of rational quotients (R8, 42_dds_engine.md R190, R192). -/
theorem increments_of_configOk {c : Cfg} (h : configOk c = true) :
    attackInc c = .ok ⌊(c.maxAmplitude : Rat) / c.attackTime⌋ ∧ decayInc c = .ok ⌊(c.maxAmplitude : Rat) / c.decayTime⌋ := by
  obtain ⟨h1, h2, h3, -⟩ := (configOk_iff c).mp h
  rw [floor_div_nat, floor_div_nat]
  exact ⟨(rampInc_of_check h1 h3).2.2.1, (rampInc_of_check h2 h3).2.2.1⟩

/-- A checked duration is longer than the two ramps and fits in 32 bits (R13). -/
theorem duration_of_configOk {c : Cfg} (h : configOk c = true) (e : Effect) :
    c.attackTime + c.decayTime < c.duration e ∧ c.duration e ≤ 2 ^ 32 - 1 :=
  checkDurations_duration ((configOk_iff c).mp h).2.2.2.1 e

/-- The output constants' check on rationals (R15). -/
theorem checkOutput_iff (c : Cfg) : checkOutput c = true ↔
    0 ≤ c.dcOffset ∧ c.dcOffset ≤ 65535 ∧ 0 ≤ c.peakAmplitude ∧ c.peakAmplitude * 2 ^ 15 < 2 ^ 31 := by
  simp only [checkOutput, Bool.and_eq_true, decide_eq_true_eq, and_assoc]
  have h1 : 0 ≤ c.peakAmplitude.num ↔ 0 ≤ c.peakAmplitude := Rat.num_nonneg
  have hd : (0 : Rat) < c.peakAmplitude.den := by exact_mod_cast c.peakAmplitude.den_pos
  have h2 : c.peakAmplitude.num * 2 ^ 15 < 2 ^ 31 * (c.peakAmplitude.den : Int) ↔ c.peakAmplitude * 2 ^ 15 < 2 ^ 31 := by
    conv_rhs => rw [← Rat.num_div_den c.peakAmplitude]
    rw [div_mul_eq_mul_div, div_lt_iff₀ hd]
    exact_mod_cast Iff.rfl
  rw [h1, h2]

/-- The planned amplitude lies in [0, MAX_AMPLITUDE] throughout an effect (42_dds_engine.md R193). -/
theorem plannedAmp_range {c : Cfg} (h : configOk c = true) {d x : Nat} (hd : c.attackTime + c.decayTime < d) (hx : x < d) :
    0 ≤ plannedAmp c d x ∧ plannedAmp c d x ≤ c.maxAmplitude := by
  obtain ⟨ha, hdec, hm, -⟩ := (configOk_iff c).mp h
  obtain ⟨hm1, hm2⟩ := (checkAmplitude_iff c).mp hm
  obtain ⟨a1, -, ainc, asz⟩ := rampInc_of_check ha hm
  obtain ⟨d1, -, dinc, dsz⟩ := rampInc_of_check hdec hm
  simp only [plannedAmp, attackInc, decayInc, ainc, dinc, incValue]
  generalize hI : c.maxAmplitude / (c.attackTime : Int) = I at *
  generalize hJ : c.maxAmplitude / (c.decayTime : Int) = J at *
  have hI0 : 0 ≤ I := hI ▸ Int.ediv_nonneg (by omega) (by omega)
  have hJ0 : 0 ≤ J := hJ ▸ Int.ediv_nonneg (by omega) (by omega)
  have hAI : (c.attackTime : Int) * I ≤ c.maxAmplitude := by rw [← hI]; exact Int.mul_ediv_self_le (by omega)
  have hDJ : (c.decayTime : Int) * J ≤ c.maxAmplitude := by rw [← hJ]; exact Int.mul_ediv_self_le (by omega)
  by_cases hxa : x ≤ c.attackTime
  · have h0 : x - (d - c.decayTime + 1) = 0 := by omega
    have hmul : (x : Int) * I ≤ c.attackTime * I := mul_le_mul_of_nonneg_right (by exact_mod_cast hxa) hI0
    simp only [h0, Nat.min_eq_left hxa]
    constructor
    · simpa using mul_nonneg (by positivity : (0 : Int) ≤ x) hI0
    · simp only [Nat.cast_zero, zero_mul, sub_zero]; omega
  · have hmin : min x c.attackTime = c.attackTime := by omega
    have hk : x - (d - c.decayTime + 1) ≤ c.decayTime - 1 := by omega
    rw [hmin]
    generalize x - (d - c.decayTime + 1) = k at hk ⊢
    have hkJ0 : 0 ≤ (k : Int) * J := mul_nonneg (by positivity) hJ0
    refine ⟨?_, by omega⟩
    rcases hJ0.eq_or_lt with hJz | hJp
    · rw [← hJz]; simpa using mul_nonneg (by positivity : (0 : Int) ≤ c.attackTime) hI0
    · have hkJ : (k : Int) * J ≤ (c.decayTime - 1) * J := mul_le_mul_of_nonneg_right (by omega) hJ0
      have : ((c.decayTime : Int) - 1) * J = c.decayTime * J - J := by ring
      omega

end Sys2Proof.Machine
end

