-- ==== Sys2Proof/Laws/Decode.lean ====
section
/-! SUPPORT. What decoding answers, said once: the fields as bit slices, OPMAP's rows, and the issuing agent from the operation
code (30_encoding.md R91, R93, R94, R101). -/

namespace Sys2Proof

/-- A field is the bit slice of R91, read as an unsigned number. -/
theorem byteField_eq (w : Word) (lo : Nat) : byteField w lo = (w.extractLsb' lo 8).toNat := by
  unfold byteField
  rw [BitVec.extractLsb'_toNat, Nat.shiftRight_eq_div_pow]

theorem byteField_lt (w : Word) (lo : Nat) : byteField w lo < 256 := Nat.mod_lt _ (by norm_num)

/-- A field and a slice equal the same number. -/
theorem extract_eq_iff (w : Word) (lo n : Nat) (hn : n < 256) :
    w.extractLsb' lo 8 = BitVec.ofNat 8 n ↔ byteField w lo = n := by
  rw [byteField_eq, ← BitVec.toNat_inj, BitVec.toNat_ofNat, Nat.mod_eq_of_lt (by simpa using hn)]

/-- What a row of OPMAP gives: its own operation code, and its fields where it has them. -/
theorem opmap_some {o c m : Nat} {i : Instr} (h : opmap o c m = some i) :
    i.opcode = o ∧ i.ctxField = (if o = 3 then c else 0) ∧ i.imm8Field = (if o = 4 then m else 0) ∧
      (c < 256 → m < 256 → i.WellFormed) := by
  unfold opmap at h
  split at h <;> cases h <;>
    simp +contextual [Instr.opcode, Instr.ctxField, Instr.imm8Field, Instr.WellFormed, Instr.wellFormed]

/-- OPMAP has exactly 17 rows. -/
theorem opmap_none (o c m : Nat) : opmap o c m = none ↔
    o ∉ [0x01, 0x02, 0x03, 0x04, 0x05, 0x10, 0x11, 0x12, 0x13, 0x14, 0x15, 0x20, 0x21, 0x22, 0x23, 0x24, 0x25] := by
  unfold opmap
  split <;> simp_all

/-- A decoded word passed every check of R93. -/
theorem decode_ok {w : Word} {i : Instr} (h : decode w = .ok i) :
    opmap (byteField w 24) (byteField w 8) (byteField w 0) = some i ∧ byteField w 16 = 0 ∧
      (byteField w 24 ≠ 3 → byteField w 8 = 0) ∧ (byteField w 24 ≠ 4 → byteField w 0 = 0) := by
  unfold decode at h
  split at h
  · cases h
  · next j hj =>
    split at h
    · cases h
    · next h1 =>
      split at h
      · cases h
      · next h2 =>
        split at h
        · cases h
        · next h3 =>
          cases h
          refine ⟨hj, by simpa using h1, fun h => ?_, fun h => ?_⟩
          · by_contra hc; exact h2 ⟨h, hc⟩
          · by_contra hc; exact h3 ⟨h, hc⟩

/-- A decoded operation has the word's operation code. -/
theorem decode_opcode {w : Word} {i : Instr} (h : decode w = .ok i) : i.opcode = byteField w 24 :=
  (opmap_some (decode_ok h).1).1

/-- TICK's words, with every context id. -/
theorem decode_tick {c : Nat} (hc : c < 256) : decode (encode (.tick c)) = .ok (.tick c) := by
  interval_cases c <;> decide

/-- WRITE_TRIGGER's words, with every value. -/
theorem decode_writeTrigger {v : Nat} (hv : v < 256) : decode (encode (.writeTrigger v)) = .ok (.writeTrigger v) := by
  interval_cases v <;> decide

/-- The agent of an operation, from its operation code (R101). -/
theorem agent_opcode (i : Instr) : i.agent = if i.opcode = 3 then .timer else .host := by
  cases i <;> rfl

end Sys2Proof
end

