-- ==== Sys2Proof/Laws/Memory.lean ====
section
/-! SUPPORT. The laws of the oscillator table's memory: read after write, the canonical form, and what BUILD_TABLE's loop leaves. -/

namespace Sys2Proof.Machine

@[simp] theorem Memory.read_nil (i : Nat) : Memory.read [] i = none := rfl

theorem Memory.read_write_same (m : Memory) (i : Nat) (v : Word) : Memory.read (Memory.write m i v) i = some v := by
  induction m with
  | nil => simp [Memory.write, Memory.read]
  | cons p rest ih =>
    obtain ⟨j, w⟩ := p
    unfold Memory.write
    split
    · simp [Memory.read]
    · split
      · simp [Memory.read]
      · simp [Memory.read, *]

theorem Memory.read_write_other (m : Memory) {i k : Nat} (v : Word) (h : k ≠ i) :
    Memory.read (Memory.write m i v) k = Memory.read m k := by
  induction m with
  | nil => simp [Memory.write, Memory.read, h]
  | cons p rest ih =>
    obtain ⟨j, w⟩ := p
    unfold Memory.write
    split
    · simp [Memory.read, h]
    · split
      · next hij => subst hij; simp [Memory.read, h]
      · simp [Memory.read, ih]

/-- A larger lower bound is a stronger claim. -/
theorem Memory.wfFrom_mono {m : Memory} {lo lo' : Nat} (h : Memory.wfFrom lo m = true) (hl : lo' ≤ lo) :
    Memory.wfFrom lo' m = true := by
  cases m with
  | nil => rfl
  | cons p rest =>
    obtain ⟨j, w⟩ := p
    simp only [Memory.wfFrom, Bool.and_eq_true, decide_eq_true_eq] at h ⊢
    exact ⟨⟨by omega, h.1.2⟩, h.2⟩

theorem Memory.wfFrom_write {m : Memory} {lo i : Nat} {v : Word} (h : Memory.wfFrom lo m = true) (hl : lo ≤ i)
    (hi : i < Config.tableSize) : Memory.wfFrom lo (Memory.write m i v) = true := by
  induction m generalizing lo with
  | nil => simp [Memory.write, Memory.wfFrom, hl, hi]
  | cons p rest ih =>
    obtain ⟨j, w⟩ := p
    simp only [Memory.wfFrom, Bool.and_eq_true, decide_eq_true_eq] at h
    unfold Memory.write
    split
    · next hij => simp [Memory.wfFrom, hl, hi, h, show i + 1 ≤ j from hij]
    · split
      · next hij => subst hij; simp [Memory.wfFrom, hl, hi, h]
      · simp only [Memory.wfFrom, Bool.and_eq_true, decide_eq_true_eq]
        exact ⟨h.1, ih h.2 (by omega)⟩

/-- Every table write keeps the canonical form. -/
theorem Memory.wf_write {m : Memory} {i : Nat} (v : Word) (h : Memory.wf m = true) (hi : i < Config.tableSize) :
    Memory.wf (Memory.write m i v) = true :=
  Memory.wfFrom_write h (Nat.zero_le i) hi

@[simp] theorem Memory.wf_nil : Memory.wf [] = true := rfl

@[simp] theorem State.resetWith_table_wf (c : Cfg) : Memory.wf (State.resetWith c).table = true := rfl

/-- BUILD_TABLE's loop keeps the canonical form. -/
theorem fillTable_wf {c : Cfg} {l : List Nat} {m m' : Memory} (h : fillTable c l m = .ok m')
    (hl : ∀ i ∈ l, i < Config.tableSize) (hm : Memory.wf m = true) : Memory.wf m' = true := by
  induction l generalizing m with
  | nil => cases h; exact hm
  | cons i rest ih =>
    unfold fillTable at h
    split at h
    · exact ih h (fun k hk => hl k (List.mem_cons_of_mem _ hk)) (Memory.wf_write _ hm (hl i (List.mem_cons_self ..)))
    · cases h

/-- BUILD_TABLE's loop leaves an index it does not visit alone. -/
theorem fillTable_read_other {c : Cfg} {l : List Nat} {m m' : Memory} {k : Nat} (h : fillTable c l m = .ok m')
    (hk : k ∉ l) : Memory.read m' k = Memory.read m k := by
  induction l generalizing m with
  | nil => cases h; rfl
  | cons i rest ih =>
    simp only [List.mem_cons, not_or] at hk
    unfold fillTable at h
    split at h
    · rw [ih h hk.2, Memory.read_write_other _ _ hk.1]
    · cases h

/-- BUILD_TABLE's loop leaves `SINE_TABLE_FN(i)` at every index it visits once. -/
theorem fillTable_read {c : Cfg} {l : List Nat} {m m' : Memory} {k : Nat} (h : fillTable c l m = .ok m')
    (hn : l.Nodup) (hk : k ∈ l) : ∃ v, sineTableFn c k = .ok v ∧ Memory.read m' k = some (toReg v) := by
  induction l generalizing m with
  | nil => cases hk
  | cons i rest ih =>
    obtain ⟨hi, hr⟩ := List.nodup_cons.mp hn
    unfold fillTable at h
    split at h
    · next v hv =>
      rcases List.mem_cons.mp hk with rfl | hk
      · exact ⟨v, hv, by rw [fillTable_read_other h hi, Memory.read_write_same]⟩
      · exact ih h hr hk
    · cases h

/-- The loop completes when every entry is in range. -/
theorem fillTable_ok {c : Cfg} {l : List Nat} (m : Memory) (h : ∀ i ∈ l, ∃ v, sineTableFn c i = .ok v) :
    ∃ m', fillTable c l m = .ok m' := by
  induction l generalizing m with
  | nil => exact ⟨m, rfl⟩
  | cons i rest ih =>
    obtain ⟨v, hv⟩ := h i (List.mem_cons_self ..)
    simp only [fillTable, hv]
    exact ih _ fun k hk => h k (List.mem_cons_of_mem _ hk)

/-- The loop's only fault is the range fault of `from_float15`. -/
theorem fillTable_error {c : Cfg} {l : List Nat} {m : Memory} {r : Raise} (h : fillTable c l m = .error r) :
    ∃ i ∈ l, sineTableFn c i = .error r := by
  induction l generalizing m with
  | nil => cases h
  | cons i rest ih =>
    unfold fillTable at h
    split at h
    · obtain ⟨k, hk, hr⟩ := ih h
      exact ⟨k, List.mem_cons_of_mem _ hk, hr⟩
    · next r' hr =>
      cases h
      exact ⟨i, List.mem_cons_self .., hr⟩

/-- The loop over a list in two parts. -/
theorem fillTable_append (c : Cfg) (l l' : List Nat) (m : Memory) : fillTable c (l ++ l') m =
    match fillTable c l m with
    | .ok m' => fillTable c l' m'
    | .error r => .error r := by
  induction l generalizing m with
  | nil => rfl
  | cons i rest ih =>
    simp only [List.cons_append, fillTable]
    split
    · exact ih _
    · rfl

/-- The lookup's index is always in the index space (20_memory.md R71). -/
theorem tableIndex_lt (p : Word) : tableIndex p < Config.tableSize := by
  unfold tableIndex Config.indexShift Config.tableSize
  rw [BitVec.toNat_ushiftRight, Nat.shiftRight_eq_div_pow]
  have := p.isLt
  omega

end Sys2Proof.Machine
end

