-- ==== Sys2Proof/Laws/Sine.lean ====
section
/-! SUPPORT. The integer arithmetic of Machine/Sine.lean against the real sine. -/

namespace Sys2Proof.Machine

/-- The squared comparison below a quarter turn. -/
theorem square_le_iff {a y b c : ℝ} (ha : 0 ≤ a) (hy : 0 ≤ y) (hc : b ^ 2 * c = 2 * y ^ 2 - b ^ 2) :
    (2 * a ^ 2 - b ^ 2 ≤ b ^ 2 * c ↔ a ≤ y) ∧ (b ^ 2 * c ≤ 2 * a ^ 2 - b ^ 2 ↔ y ≤ a) := by
  rw [hc, ← sq_le_sq₀ ha hy, ← sq_le_sq₀ hy ha]
  constructor <;> constructor <;> intro h <;> linarith

/-- `cosSide` is the sign of `b * cos(pi*m/128) - a`, for an angle that `n` doublings bring to a whole turn. -/
theorem cosSide_spec (n : Nat) : ∀ (m : Nat) (a b : Int), m ≤ 128 → 0 ≤ b → 256 ∣ 2 ^ n * m →
    (0 ≤ cosSide n m a b ↔ (a : ℝ) ≤ b * Real.cos (Real.pi * m / 128)) ∧
    (cosSide n m a b ≤ 0 ↔ (b : ℝ) * Real.cos (Real.pi * m / 128) ≤ a) := by
  have zero : ∀ (a b : Int), (0 ≤ (b - a).sign ↔ (a : ℝ) ≤ b * Real.cos (Real.pi * (0 : Nat) / 128)) ∧
      ((b - a).sign ≤ 0 ↔ (b : ℝ) * Real.cos (Real.pi * (0 : Nat) / 128) ≤ a) := by
    intro a b
    simp only [Nat.cast_zero, mul_zero, zero_div, Real.cos_zero, mul_one, Int.cast_le]
    rcases lt_trichotomy (b - a) 0 with h | h | h
    · rw [Int.sign_eq_neg_one_of_neg h]; omega
    · rw [h]; simp; omega
    · rw [Int.sign_eq_one_of_pos h]; omega
  induction n with
  | zero =>
    intro m a b hm _ hd
    obtain rfl : m = 0 := by omega
    exact zero a b
  | succ n ih =>
    intro m a b hm hb hd
    unfold cosSide
    split
    · next h => subst h; exact zero a b
    · next h0 =>
      have hbr : (0 : ℝ) ≤ b := by exact_mod_cast hb
      have double : (b : ℝ) ^ 2 * Real.cos (2 * (Real.pi * m / 128)) =
          2 * (b * Real.cos (Real.pi * m / 128)) ^ 2 - b ^ 2 := by rw [Real.cos_two_mul]; ring
      split
      · next hq =>
        have hcos : 0 ≤ Real.cos (Real.pi * m / 128) := by
          have : (m : ℝ) ≤ 64 := by exact_mod_cast hq
          apply Real.cos_nonneg_of_mem_Icc
          constructor <;> nlinarith [Real.pi_pos]
        have hy := mul_nonneg hbr hcos
        split
        · next ha =>
          have : (a : ℝ) < 0 := by exact_mod_cast ha
          constructor <;> constructor <;> intro h <;> linarith
        · next ha =>
          have har : (0 : ℝ) ≤ a := by exact_mod_cast not_lt.mp ha
          have key := ih (2 * m) (2 * a ^ 2 - b ^ 2) (b ^ 2) (by omega) (by positivity)
            (by rw [pow_succ, mul_assoc] at hd; exact hd)
          push_cast at key
          rw [show Real.pi * (2 * (m : ℝ)) / 128 = 2 * (Real.pi * m / 128) by ring] at key
          have sq := square_le_iff har hy double
          exact ⟨key.1.trans sq.1, key.2.trans sq.2⟩
      · next hq =>
        have hcos : Real.cos (Real.pi * m / 128) ≤ 0 := by
          have h1 : (64 : ℝ) ≤ m := by exact_mod_cast (by omega : 64 ≤ m)
          have h2 : (m : ℝ) ≤ 128 := by exact_mod_cast hm
          apply Real.cos_nonpos_of_pi_div_two_le_of_le <;> nlinarith [Real.pi_pos]
        have hy : (b : ℝ) * Real.cos (Real.pi * m / 128) ≤ 0 := mul_nonpos_of_nonneg_of_nonpos hbr hcos
        split
        · next ha =>
          have : (0 : ℝ) < a := by exact_mod_cast ha
          constructor <;> constructor <;> intro h <;> linarith
        · next ha =>
          have har : (a : ℝ) ≤ 0 := by exact_mod_cast not_lt.mp ha
          have key := ih (2 * (128 - m)) (2 * a ^ 2 - b ^ 2) (b ^ 2) (by omega) (by positivity) (by
            rw [pow_succ, mul_assoc] at hd
            have : 2 ^ n * (2 * (128 - m)) = 2 ^ n * 256 - 2 ^ n * (2 * m) := by rw [← Nat.mul_sub]; congr 1; omega
            rw [this]
            exact Nat.dvd_sub (Dvd.intro_left _ rfl) hd)
          push_cast [Nat.cast_sub hm] at key
          rw [show Real.pi * (2 * (128 - (m : ℝ))) / 128 = 2 * Real.pi - 2 * (Real.pi * m / 128) by ring,
            Real.cos_two_pi_sub] at key
          have sq := square_le_iff (neg_nonneg.mpr har) (neg_nonneg.mpr hy) (b := b)
            (c := Real.cos (2 * (Real.pi * m / 128))) (by rw [double]; ring)
          simp only [neg_sq, neg_le_neg_iff] at sq
          constructor
          · rw [Int.neg_nonneg, key.2, sq.2]
          · rw [Int.neg_nonpos_iff, key.1, sq.1]

/-- The comparison of the search, over the reals. -/
theorem sineAtLeast_iff {num den k r : Nat} (hk : k ≤ 64) :
    sineAtLeast num den k r = true ↔ (r : ℝ) * den ≤ num * Real.sin (Real.pi * k / 128) := by
  unfold sineAtLeast
  rw [decide_eq_true_iff, (cosSide_spec 8 (64 - k) _ num (by omega) (by omega) (Dvd.intro (64 - k) rfl)).1]
  push_cast [Nat.cast_sub hk]
  rw [show Real.pi * (64 - (k : ℝ)) / 128 = Real.pi / 2 - Real.pi * k / 128 by ring, Real.cos_pi_div_two_sub]

/-- The constants the search starts from are the floors they are said to be. -/
theorem sineScaled_checked : ∀ k, k ≤ 64 → 0 ≤ cosSide 8 (64 - k) (sineScaled.getD k 0 : Nat) (2 ^ 32) ∧
    cosSide 8 (64 - k) (sineScaled.getD k 0 + 1 : Nat) (2 ^ 32) < 0 := by decide +kernel

theorem sineScaled_spec {k : Nat} (hk : k ≤ 64) :
    (sineScaled.getD k 0 : ℝ) ≤ 2 ^ 32 * Real.sin (Real.pi * k / 128) ∧
    2 ^ 32 * Real.sin (Real.pi * k / 128) < (sineScaled.getD k 0 : ℝ) + 1 := by
  have h := sineScaled_checked k hk
  have spec := fun a => (cosSide_spec 8 (64 - k) a (2 ^ 32) (by omega) (by omega) (Dvd.intro (64 - k) rfl)).1
  rw [spec, ← not_le, spec] at h
  push_cast [Nat.cast_sub hk] at h
  rw [show Real.pi * (64 - (k : ℝ)) / 128 = Real.pi / 2 - Real.pi * k / 128 by ring, Real.cos_pi_div_two_sub] at h
  norm_num at h ⊢
  exact h

/-- What the search finds. -/
theorem greatest_spec {p : Nat → Bool} : ∀ n lo, p lo = true →
    p (lo + 2 ^ n) = false → p (greatest p n lo) = true ∧ p (greatest p n lo + 1) = false := by
  intro n
  induction n with
  | zero => intro lo h1 h2; exact ⟨h1, h2⟩
  | succ n ih =>
    intro lo h1 h2
    unfold greatest
    split
    · next h => exact ih _ h (by rw [← h2]; congr 1; ring)
    · next h => exact ih _ h1 (by simpa using h)

/-- `sineFloor` is the floor of the real value. -/
theorem sineFloor_eq {num den k : Nat} (hd : 0 < den) (hk : k ≤ 64) :
    (sineFloor num den k : Int) = ⌊(num : ℝ) * Real.sin (Real.pi * k / 128) / den⌋ := by
  have hdr : (0 : ℝ) < den := by exact_mod_cast hd
  have hn : (0 : ℝ) ≤ num := Nat.cast_nonneg _
  obtain ⟨h1, h2⟩ := sineScaled_spec hk
  obtain ⟨S, hS⟩ : ∃ S, S = sineScaled.getD k 0 := ⟨_, rfl⟩
  rw [← hS] at h1 h2
  have lower : sineAtLeast num den k (num * S / (den * 2 ^ 32)) = true := by
    rw [sineAtLeast_iff hk]
    have h : num * S / (den * 2 ^ 32) * (den * 2 ^ 32) ≤ num * S := Nat.div_mul_le_self _ _
    have h : ((num * S / (den * 2 ^ 32) : Nat) : ℝ) * (den * 2 ^ 32) ≤ num * S := by exact_mod_cast h
    nlinarith
  have upper : sineAtLeast num den k (num * S / (den * 2 ^ 32) + 2 ^ ((num / (den * 2 ^ 32) + 1).log2 + 1)) = false := by
    rw [Bool.eq_false_iff, ne_eq, sineAtLeast_iff hk, not_le]
    have hD : 0 < den * 2 ^ 32 := by positivity
    have e1 := Nat.lt_mul_div_succ (num * S) hD
    have e2 := Nat.lt_mul_div_succ num hD
    have e3 : num / (den * 2 ^ 32) + 1 + 1 ≤ 2 ^ ((num / (den * 2 ^ 32) + 1).log2 + 1) := Nat.lt_log2_self
    have e1 : ((num * S : Nat) : ℝ) < ((den * 2 ^ 32 * (num * S / (den * 2 ^ 32) + 1) : Nat) : ℝ) := by exact_mod_cast e1
    have e2 : (num : ℝ) < ((den * 2 ^ 32 * (num / (den * 2 ^ 32) + 1) : Nat) : ℝ) := by exact_mod_cast e2
    have e3 : ((num / (den * 2 ^ 32) + 1 + 1 : Nat) : ℝ) ≤ ((2 ^ ((num / (den * 2 ^ 32) + 1).log2 + 1) : Nat) : ℝ) := by
      exact_mod_cast e3
    generalize num * S / (den * 2 ^ 32) = A at *
    generalize num / (den * 2 ^ 32) = B at *
    generalize 2 ^ ((B + 1).log2 + 1) = C at *
    push_cast at *
    have e4 : (den : ℝ) * 2 ^ 32 * (B + 1 + 1) ≤ den * 2 ^ 32 * C := mul_le_mul_of_nonneg_left e3 (by positivity)
    have e5 : (num : ℝ) * (2 ^ 32 * Real.sin (Real.pi * k / 128)) ≤ num * (S + 1) := mul_le_mul_of_nonneg_left h2.le hn
    nlinarith
  obtain ⟨r1, r2⟩ := greatest_spec _ _ lower upper
  rw [hS] at r1 r2
  rw [sineAtLeast_iff hk] at r1
  rw [Bool.eq_false_iff, ne_eq, sineAtLeast_iff hk, not_le] at r2
  symm
  rw [Int.floor_eq_iff]
  constructor
  · rw [le_div_iff₀ hdr]; exact_mod_cast r1
  · rw [div_lt_iff₀ hdr]; push_cast at r2; exact_mod_cast r2

theorem quarterIndex_le (i : Nat) : quarterIndex i ≤ 64 := by unfold quarterIndex; split <;> omega

/-- The sine of index `i`, from the first quarter. -/
theorem sin_quarterIndex {i : Nat} (hi : i < 256) : Real.sin (2 * Real.pi * i / 256) =
    (if i % 256 < 128 then 1 else -1) * Real.sin (Real.pi * (quarterIndex i : Nat) / 128) := by
  have fold : ∀ j : Nat, j < 128 → Real.sin (Real.pi * (quarterIndex j : Nat) / 128) = Real.sin (Real.pi * j / 128) := by
    intro j hj
    unfold quarterIndex
    rw [Nat.mod_eq_of_lt hj]
    split
    · rfl
    · rw [Nat.cast_sub hj.le, ← Real.sin_pi_sub (Real.pi * j / 128)]
      congr 1
      push_cast
      ring
  rw [Nat.mod_eq_of_lt hi]
  split
  · next h => rw [fold i h, one_mul]; congr 1; ring
  · next h =>
    have hj : quarterIndex i = quarterIndex (i - 128) := by
      unfold quarterIndex
      rw [show i % 128 = (i - 128) % 128 by omega]
    rw [hj, fold (i - 128) (by omega), Nat.cast_sub (by omega), ← neg_eq_neg_one_mul, ← Real.sin_add_pi]
    congr 1
    push_cast
    ring

/-- A sine of the first half period is not negative. -/
theorem sin_quarter_nonneg (i : Nat) : 0 ≤ Real.sin (Real.pi * (quarterIndex i : Nat) / 128) := by
  have h : ((quarterIndex i : Nat) : ℝ) ≤ 64 := by exact_mod_cast quarterIndex_le i
  have h0 : (0 : ℝ) ≤ (quarterIndex i : Nat) := Nat.cast_nonneg _
  apply Real.sin_nonneg_of_nonneg_of_le_pi
  · have := Real.pi_pos; positivity
  · nlinarith [Real.pi_pos]

/-- A sign times the floor of a magnitude is the truncation of the signed value. -/
theorem truncatesTo_of_floor {y : ℝ} (hy : 0 ≤ y) (e : Int) (he : e = 1 ∨ e = -1) : TruncatesTo (e * y) (e * ⌊y⌋) := by
  unfold TruncatesTo
  rcases he with rfl | rfl
  · simp only [Int.cast_one, one_mul]
    refine ⟨fun _ => trivial, fun h => ?_⟩
    rw [le_antisymm h hy]; simp
  · simp only [Int.reduceNeg, Int.cast_neg, Int.cast_one, neg_mul, one_mul, Int.ceil_neg]
    refine ⟨fun h => ?_, fun _ => trivial⟩
    rw [le_antisymm (neg_nonneg.mp h) hy]; simp

/-- The scaled peak, over the reals. -/
theorem peak_eq (peak : Rat) :
    (peak : ℝ) * 2 ^ 15 = (peak.num.sign : Int) * (((peak.num.natAbs * 2 ^ 15 : Nat) : ℝ) / (peak.den : ℝ)) := by
  have hd : (peak.den : ℝ) ≠ 0 := by exact_mod_cast peak.den_nz
  have hs : (peak.num : ℝ) = (peak.num.sign : Int) * ((peak.num.natAbs : Nat) : ℝ) := by
    rw [← Int.cast_natCast, ← Int.cast_mul, Int.sign_mul_natAbs]
  rw [Rat.cast_def]
  push_cast
  rw [hs]
  field_simp
  norm_num

/-- `peakSine` truncates the real value, at every peak. -/
theorem peakSine_truncates (peak : Rat) {i : Nat} (hi : i < 256) :
    TruncatesTo ((peak : ℝ) * Real.sin (2 * Real.pi * i / 256) * 2 ^ 15) (peakSine peak i) := by
  obtain ⟨y, hy⟩ : ∃ y, y = ((peak.num.natAbs * 2 ^ 15 : Nat) : ℝ) * Real.sin (Real.pi * (quarterIndex i : Nat) / 128) / peak.den :=
    ⟨_, rfl⟩
  have hy0 : 0 ≤ y := by rw [hy]; have := sin_quarter_nonneg i; positivity
  obtain ⟨e, he⟩ : ∃ e : Int, e = if i % 256 < 128 then peak.num.sign else -peak.num.sign := ⟨_, rfl⟩
  have hx : (peak : ℝ) * Real.sin (2 * Real.pi * i / 256) * 2 ^ 15 = e * y := by
    rw [mul_right_comm, peak_eq, sin_quarterIndex hi, hy, he]
    split <;> (push_cast; ring)
  unfold peakSine
  rw [sineFloor_eq peak.den_pos (quarterIndex_le i), ← hy, ← he, hx]
  rcases Int.sign_trichotomy peak.num with h | h | h
  · refine truncatesTo_of_floor hy0 e ?_; rw [he, h]; split <;> simp
  · have h0 : e = 0 := by rw [he, h]; simp
    rw [h0]; simp [TruncatesTo]
  · refine truncatesTo_of_floor hy0 e ?_; rw [he, h]; split <;> simp

/-- Everything `SINE_TABLE_FN` can answer, by the kind of its table. -/
theorem sineTableFn_cases (c : Cfg) (i : Nat) :
    (∃ t, c.sineTable = .deployed t ∧ sineTableFn c i = .ok (t.toList.getD i 0).toInt) ∨
    (c.sineTable = .exactSine ∧ fitsS32 (peakSine c.peakAmplitude i) = true ∧
      sineTableFn c i = .ok (peakSine c.peakAmplitude i)) ∨
    (c.sineTable = .exactSine ∧ fitsS32 (peakSine c.peakAmplitude i) = false ∧
      sineTableFn c i = .error { code := .fxFloatRange, info := .rat (sineRangeInfo c.peakAmplitude i) }) := by
  unfold sineTableFn
  split
  · next h =>
    split
    · next hf => exact .inr (.inl ⟨h, hf, rfl⟩)
    · next hf => exact .inr (.inr ⟨h, by simpa using hf, rfl⟩)
  · next t h => exact .inl ⟨t, h, rfl⟩

/-- What `SINE_TABLE_FN` gives is s32 (R165). -/
theorem sineTableFn_fits {c : Cfg} {i : Nat} {v : Int} (h : sineTableFn c i = .ok v) : fitsS32 v = true := by
  rcases sineTableFn_cases c i with ⟨t, -, ht⟩ | ⟨-, hf, he⟩ | ⟨-, -, he⟩
  · rw [ht] at h; cases h; exact toInt_fits _
  · rw [he] at h; cases h; exact hf
  · rw [he] at h; cases h

/-- The one fault of `SINE_TABLE_FN` (R161). -/
theorem sineTableFn_error {c : Cfg} {i : Nat} {r : Raise} (h : sineTableFn c i = .error r) : r.code = .fxFloatRange := by
  rcases sineTableFn_cases c i with ⟨t, -, ht⟩ | ⟨-, -, he⟩ | ⟨-, -, he⟩ <;> simp_all
  rw [← h]

/-- The table of one configuration is that of every other with the same peak and the same kind of table. -/
theorem sineTableFn_congr {c d : Cfg} (hp : c.peakAmplitude = d.peakAmplitude) (ht : c.sineTable = d.sineTable) (i : Nat) :
    sineTableFn c i = sineTableFn d i := by
  unfold sineTableFn; rw [hp, ht]

end Sys2Proof.Machine
end

