-- ==== Sys2Proof/Laws/State.lean ====
section
/-! SUPPORT. What each update of the state does to each field, so that no proof unfolds a record update. -/

namespace Sys2Proof.Machine

/-! ### State.emit -/

@[simp] theorem State.emit_voice0 (x : Sample) (s : State) : (State.emit x s).voice0 = s.voice0 := rfl
@[simp] theorem State.emit_voice1 (x : Sample) (s : State) : (State.emit x s).voice1 = s.voice1 := rfl
@[simp] theorem State.emit_trig (x : Sample) (s : State) : (State.emit x s).trig = s.trig := rfl
@[simp] theorem State.emit_lastCtx (x : Sample) (s : State) : (State.emit x s).lastCtx = s.lastCtx := rfl
@[simp] theorem State.emit_lifecycle (x : Sample) (s : State) : (State.emit x s).lifecycle = s.lifecycle := rfl
@[simp] theorem State.emit_table (x : Sample) (s : State) : (State.emit x s).table = s.table := rfl
@[simp] theorem State.emit_fault (x : Sample) (s : State) : (State.emit x s).fault = s.fault := rfl
@[simp] theorem State.emit_faultInfo (x : Sample) (s : State) : (State.emit x s).faultInfo = s.faultInfo := rfl
@[simp] theorem State.emit_out (x : Sample) (s : State) : (State.emit x s).out = s.out ++ [x] := rfl
@[simp] theorem State.emit_cfg (x : Sample) (s : State) : (State.emit x s).cfg = s.cfg := rfl
@[simp] theorem State.emit_op (x : Sample) (s : State) : (State.emit x s).op = s.op := rfl
@[simp] theorem State.emit_pending (x : Sample) (s : State) : (State.emit x s).pending = s.pending := rfl
@[simp] theorem State.emit_responses (x : Sample) (s : State) : (State.emit x s).responses = s.responses := rfl
@[simp] theorem State.emit_draws (x : Sample) (s : State) : (State.emit x s).draws = s.draws := rfl

/-! ### State.respond -/

@[simp] theorem State.respond_voice0 (v : Value) (s : State) : (State.respond v s).voice0 = s.voice0 := rfl
@[simp] theorem State.respond_voice1 (v : Value) (s : State) : (State.respond v s).voice1 = s.voice1 := rfl
@[simp] theorem State.respond_trig (v : Value) (s : State) : (State.respond v s).trig = s.trig := rfl
@[simp] theorem State.respond_lastCtx (v : Value) (s : State) : (State.respond v s).lastCtx = s.lastCtx := rfl
@[simp] theorem State.respond_lifecycle (v : Value) (s : State) : (State.respond v s).lifecycle = s.lifecycle := rfl
@[simp] theorem State.respond_table (v : Value) (s : State) : (State.respond v s).table = s.table := rfl
@[simp] theorem State.respond_fault (v : Value) (s : State) : (State.respond v s).fault = s.fault := rfl
@[simp] theorem State.respond_faultInfo (v : Value) (s : State) : (State.respond v s).faultInfo = s.faultInfo := rfl
@[simp] theorem State.respond_out (v : Value) (s : State) : (State.respond v s).out = s.out := rfl
@[simp] theorem State.respond_cfg (v : Value) (s : State) : (State.respond v s).cfg = s.cfg := rfl
@[simp] theorem State.respond_op (v : Value) (s : State) : (State.respond v s).op = s.op := rfl
@[simp] theorem State.respond_pending (v : Value) (s : State) : (State.respond v s).pending = s.pending := rfl
@[simp] theorem State.respond_responses (v : Value) (s : State) : (State.respond v s).responses = s.responses ++ [v] := rfl
@[simp] theorem State.respond_draws (v : Value) (s : State) : (State.respond v s).draws = s.draws := rfl

/-! ### State.setVoice0 -/

@[simp] theorem State.setVoice0_voice0 (v : Voice) (s : State) : (State.setVoice0 v s).voice0 = v := rfl
@[simp] theorem State.setVoice0_voice1 (v : Voice) (s : State) : (State.setVoice0 v s).voice1 = s.voice1 := rfl
@[simp] theorem State.setVoice0_trig (v : Voice) (s : State) : (State.setVoice0 v s).trig = s.trig := rfl
@[simp] theorem State.setVoice0_lastCtx (v : Voice) (s : State) : (State.setVoice0 v s).lastCtx = s.lastCtx := rfl
@[simp] theorem State.setVoice0_lifecycle (v : Voice) (s : State) : (State.setVoice0 v s).lifecycle = s.lifecycle := rfl
@[simp] theorem State.setVoice0_table (v : Voice) (s : State) : (State.setVoice0 v s).table = s.table := rfl
@[simp] theorem State.setVoice0_fault (v : Voice) (s : State) : (State.setVoice0 v s).fault = s.fault := rfl
@[simp] theorem State.setVoice0_faultInfo (v : Voice) (s : State) : (State.setVoice0 v s).faultInfo = s.faultInfo := rfl
@[simp] theorem State.setVoice0_out (v : Voice) (s : State) : (State.setVoice0 v s).out = s.out := rfl
@[simp] theorem State.setVoice0_cfg (v : Voice) (s : State) : (State.setVoice0 v s).cfg = s.cfg := rfl
@[simp] theorem State.setVoice0_op (v : Voice) (s : State) : (State.setVoice0 v s).op = s.op := rfl
@[simp] theorem State.setVoice0_pending (v : Voice) (s : State) : (State.setVoice0 v s).pending = s.pending := rfl
@[simp] theorem State.setVoice0_responses (v : Voice) (s : State) : (State.setVoice0 v s).responses = s.responses := rfl
@[simp] theorem State.setVoice0_draws (v : Voice) (s : State) : (State.setVoice0 v s).draws = s.draws := rfl

/-! ### State.setTrig -/

@[simp] theorem State.setTrig_voice0 (t : Byte) (s : State) : (State.setTrig t s).voice0 = s.voice0 := rfl
@[simp] theorem State.setTrig_voice1 (t : Byte) (s : State) : (State.setTrig t s).voice1 = s.voice1 := rfl
@[simp] theorem State.setTrig_trig (t : Byte) (s : State) : (State.setTrig t s).trig = t := rfl
@[simp] theorem State.setTrig_lastCtx (t : Byte) (s : State) : (State.setTrig t s).lastCtx = s.lastCtx := rfl
@[simp] theorem State.setTrig_lifecycle (t : Byte) (s : State) : (State.setTrig t s).lifecycle = s.lifecycle := rfl
@[simp] theorem State.setTrig_table (t : Byte) (s : State) : (State.setTrig t s).table = s.table := rfl
@[simp] theorem State.setTrig_fault (t : Byte) (s : State) : (State.setTrig t s).fault = s.fault := rfl
@[simp] theorem State.setTrig_faultInfo (t : Byte) (s : State) : (State.setTrig t s).faultInfo = s.faultInfo := rfl
@[simp] theorem State.setTrig_out (t : Byte) (s : State) : (State.setTrig t s).out = s.out := rfl
@[simp] theorem State.setTrig_cfg (t : Byte) (s : State) : (State.setTrig t s).cfg = s.cfg := rfl
@[simp] theorem State.setTrig_op (t : Byte) (s : State) : (State.setTrig t s).op = s.op := rfl
@[simp] theorem State.setTrig_pending (t : Byte) (s : State) : (State.setTrig t s).pending = s.pending := rfl
@[simp] theorem State.setTrig_responses (t : Byte) (s : State) : (State.setTrig t s).responses = s.responses := rfl
@[simp] theorem State.setTrig_draws (t : Byte) (s : State) : (State.setTrig t s).draws = s.draws := rfl

/-! ### State.setLifecycle -/

@[simp] theorem State.setLifecycle_voice0 (l : Lifecycle) (s : State) : (State.setLifecycle l s).voice0 = s.voice0 := rfl
@[simp] theorem State.setLifecycle_voice1 (l : Lifecycle) (s : State) : (State.setLifecycle l s).voice1 = s.voice1 := rfl
@[simp] theorem State.setLifecycle_trig (l : Lifecycle) (s : State) : (State.setLifecycle l s).trig = s.trig := rfl
@[simp] theorem State.setLifecycle_lastCtx (l : Lifecycle) (s : State) : (State.setLifecycle l s).lastCtx = s.lastCtx := rfl
@[simp] theorem State.setLifecycle_lifecycle (l : Lifecycle) (s : State) : (State.setLifecycle l s).lifecycle = l := rfl
@[simp] theorem State.setLifecycle_table (l : Lifecycle) (s : State) : (State.setLifecycle l s).table = s.table := rfl
@[simp] theorem State.setLifecycle_fault (l : Lifecycle) (s : State) : (State.setLifecycle l s).fault = s.fault := rfl
@[simp] theorem State.setLifecycle_faultInfo (l : Lifecycle) (s : State) : (State.setLifecycle l s).faultInfo = s.faultInfo := rfl
@[simp] theorem State.setLifecycle_out (l : Lifecycle) (s : State) : (State.setLifecycle l s).out = s.out := rfl
@[simp] theorem State.setLifecycle_cfg (l : Lifecycle) (s : State) : (State.setLifecycle l s).cfg = s.cfg := rfl
@[simp] theorem State.setLifecycle_op (l : Lifecycle) (s : State) : (State.setLifecycle l s).op = s.op := rfl
@[simp] theorem State.setLifecycle_pending (l : Lifecycle) (s : State) : (State.setLifecycle l s).pending = s.pending := rfl
@[simp] theorem State.setLifecycle_responses (l : Lifecycle) (s : State) : (State.setLifecycle l s).responses = s.responses := rfl
@[simp] theorem State.setLifecycle_draws (l : Lifecycle) (s : State) : (State.setLifecycle l s).draws = s.draws := rfl

/-! ### State.setTable -/

@[simp] theorem State.setTable_voice0 (m : Memory) (s : State) : (State.setTable m s).voice0 = s.voice0 := rfl
@[simp] theorem State.setTable_voice1 (m : Memory) (s : State) : (State.setTable m s).voice1 = s.voice1 := rfl
@[simp] theorem State.setTable_trig (m : Memory) (s : State) : (State.setTable m s).trig = s.trig := rfl
@[simp] theorem State.setTable_lastCtx (m : Memory) (s : State) : (State.setTable m s).lastCtx = s.lastCtx := rfl
@[simp] theorem State.setTable_lifecycle (m : Memory) (s : State) : (State.setTable m s).lifecycle = s.lifecycle := rfl
@[simp] theorem State.setTable_table (m : Memory) (s : State) : (State.setTable m s).table = m := rfl
@[simp] theorem State.setTable_fault (m : Memory) (s : State) : (State.setTable m s).fault = s.fault := rfl
@[simp] theorem State.setTable_faultInfo (m : Memory) (s : State) : (State.setTable m s).faultInfo = s.faultInfo := rfl
@[simp] theorem State.setTable_out (m : Memory) (s : State) : (State.setTable m s).out = s.out := rfl
@[simp] theorem State.setTable_cfg (m : Memory) (s : State) : (State.setTable m s).cfg = s.cfg := rfl
@[simp] theorem State.setTable_op (m : Memory) (s : State) : (State.setTable m s).op = s.op := rfl
@[simp] theorem State.setTable_pending (m : Memory) (s : State) : (State.setTable m s).pending = s.pending := rfl
@[simp] theorem State.setTable_responses (m : Memory) (s : State) : (State.setTable m s).responses = s.responses := rfl
@[simp] theorem State.setTable_draws (m : Memory) (s : State) : (State.setTable m s).draws = s.draws := rfl

/-! ### State.setLastCtx -/

@[simp] theorem State.setLastCtx_voice0 (c : Word) (s : State) : (State.setLastCtx c s).voice0 = s.voice0 := rfl
@[simp] theorem State.setLastCtx_voice1 (c : Word) (s : State) : (State.setLastCtx c s).voice1 = s.voice1 := rfl
@[simp] theorem State.setLastCtx_trig (c : Word) (s : State) : (State.setLastCtx c s).trig = s.trig := rfl
@[simp] theorem State.setLastCtx_lastCtx (c : Word) (s : State) : (State.setLastCtx c s).lastCtx = c := rfl
@[simp] theorem State.setLastCtx_lifecycle (c : Word) (s : State) : (State.setLastCtx c s).lifecycle = s.lifecycle := rfl
@[simp] theorem State.setLastCtx_table (c : Word) (s : State) : (State.setLastCtx c s).table = s.table := rfl
@[simp] theorem State.setLastCtx_fault (c : Word) (s : State) : (State.setLastCtx c s).fault = s.fault := rfl
@[simp] theorem State.setLastCtx_faultInfo (c : Word) (s : State) : (State.setLastCtx c s).faultInfo = s.faultInfo := rfl
@[simp] theorem State.setLastCtx_out (c : Word) (s : State) : (State.setLastCtx c s).out = s.out := rfl
@[simp] theorem State.setLastCtx_cfg (c : Word) (s : State) : (State.setLastCtx c s).cfg = s.cfg := rfl
@[simp] theorem State.setLastCtx_op (c : Word) (s : State) : (State.setLastCtx c s).op = s.op := rfl
@[simp] theorem State.setLastCtx_pending (c : Word) (s : State) : (State.setLastCtx c s).pending = s.pending := rfl
@[simp] theorem State.setLastCtx_responses (c : Word) (s : State) : (State.setLastCtx c s).responses = s.responses := rfl
@[simp] theorem State.setLastCtx_draws (c : Word) (s : State) : (State.setLastCtx c s).draws = s.draws := rfl

/-! ### State.accept -/

@[simp] theorem State.accept_voice0 (e : Issue) (rest : List Issue) (s : State) : (State.accept e rest s).voice0 = s.voice0 := rfl
@[simp] theorem State.accept_voice1 (e : Issue) (rest : List Issue) (s : State) : (State.accept e rest s).voice1 = s.voice1 := rfl
@[simp] theorem State.accept_trig (e : Issue) (rest : List Issue) (s : State) : (State.accept e rest s).trig = s.trig := rfl
@[simp] theorem State.accept_lastCtx (e : Issue) (rest : List Issue) (s : State) : (State.accept e rest s).lastCtx = s.lastCtx := rfl
@[simp] theorem State.accept_lifecycle (e : Issue) (rest : List Issue) (s : State) : (State.accept e rest s).lifecycle = s.lifecycle := rfl
@[simp] theorem State.accept_table (e : Issue) (rest : List Issue) (s : State) : (State.accept e rest s).table = s.table := rfl
@[simp] theorem State.accept_fault (e : Issue) (rest : List Issue) (s : State) : (State.accept e rest s).fault = s.fault := rfl
@[simp] theorem State.accept_faultInfo (e : Issue) (rest : List Issue) (s : State) : (State.accept e rest s).faultInfo = s.faultInfo := rfl
@[simp] theorem State.accept_out (e : Issue) (rest : List Issue) (s : State) : (State.accept e rest s).out = s.out := rfl
@[simp] theorem State.accept_cfg (e : Issue) (rest : List Issue) (s : State) : (State.accept e rest s).cfg = s.cfg := rfl
@[simp] theorem State.accept_op (e : Issue) (rest : List Issue) (s : State) : (State.accept e rest s).op = e := rfl
@[simp] theorem State.accept_pending (e : Issue) (rest : List Issue) (s : State) : (State.accept e rest s).pending = rest := rfl
@[simp] theorem State.accept_responses (e : Issue) (rest : List Issue) (s : State) : (State.accept e rest s).responses = s.responses := rfl
@[simp] theorem State.accept_draws (e : Issue) (rest : List Issue) (s : State) : (State.accept e rest s).draws = s.draws := rfl

/-! ### State.raise -/

@[simp] theorem State.raise_voice0 (r : Raise) (s : State) : (State.raise r s).voice0 = s.voice0 := rfl
@[simp] theorem State.raise_voice1 (r : Raise) (s : State) : (State.raise r s).voice1 = s.voice1 := rfl
@[simp] theorem State.raise_trig (r : Raise) (s : State) : (State.raise r s).trig = s.trig := rfl
@[simp] theorem State.raise_lastCtx (r : Raise) (s : State) : (State.raise r s).lastCtx = s.lastCtx := rfl
@[simp] theorem State.raise_lifecycle (r : Raise) (s : State) : (State.raise r s).lifecycle = s.lifecycle := rfl
@[simp] theorem State.raise_table (r : Raise) (s : State) : (State.raise r s).table = s.table := rfl
@[simp] theorem State.raise_fault (r : Raise) (s : State) : (State.raise r s).fault = r.code := rfl
@[simp] theorem State.raise_faultInfo (r : Raise) (s : State) : (State.raise r s).faultInfo = some { word := s.op.word, info := r.info } := rfl
@[simp] theorem State.raise_out (r : Raise) (s : State) : (State.raise r s).out = s.out := rfl
@[simp] theorem State.raise_cfg (r : Raise) (s : State) : (State.raise r s).cfg = s.cfg := rfl
@[simp] theorem State.raise_op (r : Raise) (s : State) : (State.raise r s).op = s.op := rfl
@[simp] theorem State.raise_pending (r : Raise) (s : State) : (State.raise r s).pending = s.pending := rfl
@[simp] theorem State.raise_responses (r : Raise) (s : State) : (State.raise r s).responses = s.responses := rfl
@[simp] theorem State.raise_draws (r : Raise) (s : State) : (State.raise r s).draws = s.draws := rfl

/-! ### State.issue -/

@[simp] theorem State.issue_voice0 (e : Issue) (s : State) : (State.issue e s).voice0 = s.voice0 := rfl
@[simp] theorem State.issue_voice1 (e : Issue) (s : State) : (State.issue e s).voice1 = s.voice1 := rfl
@[simp] theorem State.issue_trig (e : Issue) (s : State) : (State.issue e s).trig = s.trig := rfl
@[simp] theorem State.issue_lastCtx (e : Issue) (s : State) : (State.issue e s).lastCtx = s.lastCtx := rfl
@[simp] theorem State.issue_lifecycle (e : Issue) (s : State) : (State.issue e s).lifecycle = s.lifecycle := rfl
@[simp] theorem State.issue_table (e : Issue) (s : State) : (State.issue e s).table = s.table := rfl
@[simp] theorem State.issue_fault (e : Issue) (s : State) : (State.issue e s).fault = s.fault := rfl
@[simp] theorem State.issue_faultInfo (e : Issue) (s : State) : (State.issue e s).faultInfo = s.faultInfo := rfl
@[simp] theorem State.issue_out (e : Issue) (s : State) : (State.issue e s).out = s.out := rfl
@[simp] theorem State.issue_cfg (e : Issue) (s : State) : (State.issue e s).cfg = s.cfg := rfl
@[simp] theorem State.issue_op (e : Issue) (s : State) : (State.issue e s).op = s.op := rfl
@[simp] theorem State.issue_pending (e : Issue) (s : State) : (State.issue e s).pending = e :: s.pending := rfl
@[simp] theorem State.issue_responses (e : Issue) (s : State) : (State.issue e s).responses = s.responses := rfl
@[simp] theorem State.issue_draws (e : Issue) (s : State) : (State.issue e s).draws = s.draws := rfl

/-! ### State.enterEffect -/

@[simp] theorem State.enterEffect_voice0 (e : Effect) (s : State) : (State.enterEffect e s).voice0 = { s.voice0 with state := .playing e, amp := 0, elapsed := 0 } := rfl
@[simp] theorem State.enterEffect_voice1 (e : Effect) (s : State) : (State.enterEffect e s).voice1 = s.voice1 := rfl
@[simp] theorem State.enterEffect_trig (e : Effect) (s : State) : (State.enterEffect e s).trig = 0 := rfl
@[simp] theorem State.enterEffect_lastCtx (e : Effect) (s : State) : (State.enterEffect e s).lastCtx = s.lastCtx := rfl
@[simp] theorem State.enterEffect_lifecycle (e : Effect) (s : State) : (State.enterEffect e s).lifecycle = s.lifecycle := rfl
@[simp] theorem State.enterEffect_table (e : Effect) (s : State) : (State.enterEffect e s).table = s.table := rfl
@[simp] theorem State.enterEffect_fault (e : Effect) (s : State) : (State.enterEffect e s).fault = s.fault := rfl
@[simp] theorem State.enterEffect_faultInfo (e : Effect) (s : State) : (State.enterEffect e s).faultInfo = s.faultInfo := rfl
@[simp] theorem State.enterEffect_out (e : Effect) (s : State) : (State.enterEffect e s).out = s.out := rfl
@[simp] theorem State.enterEffect_cfg (e : Effect) (s : State) : (State.enterEffect e s).cfg = s.cfg := rfl
@[simp] theorem State.enterEffect_op (e : Effect) (s : State) : (State.enterEffect e s).op = s.op := rfl
@[simp] theorem State.enterEffect_pending (e : Effect) (s : State) : (State.enterEffect e s).pending = s.pending := rfl
@[simp] theorem State.enterEffect_responses (e : Effect) (s : State) : (State.enterEffect e s).responses = s.responses := rfl
@[simp] theorem State.enterEffect_draws (e : Effect) (s : State) : (State.enterEffect e s).draws = s.draws := rfl

/-! ### State.returnToIdle -/

@[simp] theorem State.returnToIdle_voice0 (s : State) : (State.returnToIdle s).voice0 = { s.voice0 with state := .idle, amp := 0, elapsed := 0 } := rfl
@[simp] theorem State.returnToIdle_voice1 (s : State) : (State.returnToIdle s).voice1 = s.voice1 := rfl
@[simp] theorem State.returnToIdle_trig (s : State) : (State.returnToIdle s).trig = 0 := rfl
@[simp] theorem State.returnToIdle_lastCtx (s : State) : (State.returnToIdle s).lastCtx = s.lastCtx := rfl
@[simp] theorem State.returnToIdle_lifecycle (s : State) : (State.returnToIdle s).lifecycle = s.lifecycle := rfl
@[simp] theorem State.returnToIdle_table (s : State) : (State.returnToIdle s).table = s.table := rfl
@[simp] theorem State.returnToIdle_fault (s : State) : (State.returnToIdle s).fault = s.fault := rfl
@[simp] theorem State.returnToIdle_faultInfo (s : State) : (State.returnToIdle s).faultInfo = s.faultInfo := rfl
@[simp] theorem State.returnToIdle_out (s : State) : (State.returnToIdle s).out = s.out := rfl
@[simp] theorem State.returnToIdle_cfg (s : State) : (State.returnToIdle s).cfg = s.cfg := rfl
@[simp] theorem State.returnToIdle_op (s : State) : (State.returnToIdle s).op = s.op := rfl
@[simp] theorem State.returnToIdle_pending (s : State) : (State.returnToIdle s).pending = s.pending := rfl
@[simp] theorem State.returnToIdle_responses (s : State) : (State.returnToIdle s).responses = s.responses := rfl
@[simp] theorem State.returnToIdle_draws (s : State) : (State.returnToIdle s).draws = s.draws := rfl

/-! ### State.countSample -/

@[simp] theorem State.countSample_voice0 (s : State) : (State.countSample s).voice0 = { s.voice0 with elapsed := s.voice0.elapsed + 1 } := rfl
@[simp] theorem State.countSample_voice1 (s : State) : (State.countSample s).voice1 = s.voice1 := rfl
@[simp] theorem State.countSample_trig (s : State) : (State.countSample s).trig = s.trig := rfl
@[simp] theorem State.countSample_lastCtx (s : State) : (State.countSample s).lastCtx = s.lastCtx := rfl
@[simp] theorem State.countSample_lifecycle (s : State) : (State.countSample s).lifecycle = s.lifecycle := rfl
@[simp] theorem State.countSample_table (s : State) : (State.countSample s).table = s.table := rfl
@[simp] theorem State.countSample_fault (s : State) : (State.countSample s).fault = s.fault := rfl
@[simp] theorem State.countSample_faultInfo (s : State) : (State.countSample s).faultInfo = s.faultInfo := rfl
@[simp] theorem State.countSample_out (s : State) : (State.countSample s).out = s.out := rfl
@[simp] theorem State.countSample_cfg (s : State) : (State.countSample s).cfg = s.cfg := rfl
@[simp] theorem State.countSample_op (s : State) : (State.countSample s).op = s.op := rfl
@[simp] theorem State.countSample_pending (s : State) : (State.countSample s).pending = s.pending := rfl
@[simp] theorem State.countSample_responses (s : State) : (State.countSample s).responses = s.responses := rfl
@[simp] theorem State.countSample_draws (s : State) : (State.countSample s).draws = s.draws := rfl

/-! ### State.writeTrig: the fields it never changes -/

@[simp] theorem State.writeTrig_voice0 (v : Byte) (s : State) : (State.writeTrig v s).voice0 = s.voice0 := by
  unfold State.writeTrig; split <;> rfl
@[simp] theorem State.writeTrig_voice1 (v : Byte) (s : State) : (State.writeTrig v s).voice1 = s.voice1 := by
  unfold State.writeTrig; split <;> rfl
@[simp] theorem State.writeTrig_lastCtx (v : Byte) (s : State) : (State.writeTrig v s).lastCtx = s.lastCtx := by
  unfold State.writeTrig; split <;> rfl
@[simp] theorem State.writeTrig_lifecycle (v : Byte) (s : State) : (State.writeTrig v s).lifecycle = s.lifecycle := by
  unfold State.writeTrig; split <;> rfl
@[simp] theorem State.writeTrig_table (v : Byte) (s : State) : (State.writeTrig v s).table = s.table := by
  unfold State.writeTrig; split <;> rfl
@[simp] theorem State.writeTrig_fault (v : Byte) (s : State) : (State.writeTrig v s).fault = s.fault := by
  unfold State.writeTrig; split <;> rfl
@[simp] theorem State.writeTrig_faultInfo (v : Byte) (s : State) : (State.writeTrig v s).faultInfo = s.faultInfo := by
  unfold State.writeTrig; split <;> rfl
@[simp] theorem State.writeTrig_out (v : Byte) (s : State) : (State.writeTrig v s).out = s.out := by
  unfold State.writeTrig; split <;> rfl
@[simp] theorem State.writeTrig_cfg (v : Byte) (s : State) : (State.writeTrig v s).cfg = s.cfg := by
  unfold State.writeTrig; split <;> rfl
@[simp] theorem State.writeTrig_op (v : Byte) (s : State) : (State.writeTrig v s).op = s.op := by
  unfold State.writeTrig; split <;> rfl
@[simp] theorem State.writeTrig_pending (v : Byte) (s : State) : (State.writeTrig v s).pending = s.pending := by
  unfold State.writeTrig; split <;> rfl
@[simp] theorem State.writeTrig_responses (v : Byte) (s : State) : (State.writeTrig v s).responses = s.responses := by
  unfold State.writeTrig; split <;> rfl

/-! ### State.quietEmit: the fields it never changes -/

@[simp] theorem State.quietEmit_voice0 (s : State) : (State.quietEmit s).voice0 = s.voice0 := by
  unfold State.quietEmit; split <;> rfl
@[simp] theorem State.quietEmit_voice1 (s : State) : (State.quietEmit s).voice1 = s.voice1 := by
  unfold State.quietEmit; split <;> rfl
@[simp] theorem State.quietEmit_trig (s : State) : (State.quietEmit s).trig = s.trig := by
  unfold State.quietEmit; split <;> rfl
@[simp] theorem State.quietEmit_lastCtx (s : State) : (State.quietEmit s).lastCtx = s.lastCtx := by
  unfold State.quietEmit; split <;> rfl
@[simp] theorem State.quietEmit_lifecycle (s : State) : (State.quietEmit s).lifecycle = s.lifecycle := by
  unfold State.quietEmit; split <;> rfl
@[simp] theorem State.quietEmit_table (s : State) : (State.quietEmit s).table = s.table := by
  unfold State.quietEmit; split <;> rfl
@[simp] theorem State.quietEmit_fault (s : State) : (State.quietEmit s).fault = s.fault := by
  unfold State.quietEmit; split <;> rfl
@[simp] theorem State.quietEmit_faultInfo (s : State) : (State.quietEmit s).faultInfo = s.faultInfo := by
  unfold State.quietEmit; split <;> rfl
@[simp] theorem State.quietEmit_cfg (s : State) : (State.quietEmit s).cfg = s.cfg := by
  unfold State.quietEmit; split <;> rfl
@[simp] theorem State.quietEmit_op (s : State) : (State.quietEmit s).op = s.op := by
  unfold State.quietEmit; split <;> rfl
@[simp] theorem State.quietEmit_pending (s : State) : (State.quietEmit s).pending = s.pending := by
  unfold State.quietEmit; split <;> rfl
@[simp] theorem State.quietEmit_responses (s : State) : (State.quietEmit s).responses = s.responses := by
  unfold State.quietEmit; split <;> rfl
@[simp] theorem State.quietEmit_draws (s : State) : (State.quietEmit s).draws = s.draws := by
  unfold State.quietEmit; split <;> rfl

/-! ### State.complete: the fields it never changes -/

@[simp] theorem State.complete_voice1 (e : Effect) (s : State) : (State.complete e s).voice1 = s.voice1 := by
  unfold State.complete; split <;> rfl
@[simp] theorem State.complete_lastCtx (e : Effect) (s : State) : (State.complete e s).lastCtx = s.lastCtx := by
  unfold State.complete; split <;> rfl
@[simp] theorem State.complete_lifecycle (e : Effect) (s : State) : (State.complete e s).lifecycle = s.lifecycle := by
  unfold State.complete; split <;> rfl
@[simp] theorem State.complete_table (e : Effect) (s : State) : (State.complete e s).table = s.table := by
  unfold State.complete; split <;> rfl
@[simp] theorem State.complete_fault (e : Effect) (s : State) : (State.complete e s).fault = s.fault := by
  unfold State.complete; split <;> rfl
@[simp] theorem State.complete_faultInfo (e : Effect) (s : State) : (State.complete e s).faultInfo = s.faultInfo := by
  unfold State.complete; split <;> rfl
@[simp] theorem State.complete_out (e : Effect) (s : State) : (State.complete e s).out = s.out := by
  unfold State.complete; split <;> rfl
@[simp] theorem State.complete_cfg (e : Effect) (s : State) : (State.complete e s).cfg = s.cfg := by
  unfold State.complete; split <;> rfl
@[simp] theorem State.complete_op (e : Effect) (s : State) : (State.complete e s).op = s.op := by
  unfold State.complete; split <;> rfl
@[simp] theorem State.complete_pending (e : Effect) (s : State) : (State.complete e s).pending = s.pending := by
  unfold State.complete; split <;> rfl
@[simp] theorem State.complete_responses (e : Effect) (s : State) : (State.complete e s).responses = s.responses := by
  unfold State.complete; split <;> rfl
@[simp] theorem State.complete_draws (e : Effect) (s : State) : (State.complete e s).draws = s.draws := by
  unfold State.complete; split <;> rfl

/-! ### State.consumeTrigger: the fields it never changes -/

@[simp] theorem State.consumeTrigger_voice1 (s : State) : (State.consumeTrigger s).voice1 = s.voice1 := by
  unfold State.consumeTrigger; split <;> rfl
@[simp] theorem State.consumeTrigger_lastCtx (s : State) : (State.consumeTrigger s).lastCtx = s.lastCtx := by
  unfold State.consumeTrigger; split <;> rfl
@[simp] theorem State.consumeTrigger_lifecycle (s : State) : (State.consumeTrigger s).lifecycle = s.lifecycle := by
  unfold State.consumeTrigger; split <;> rfl
@[simp] theorem State.consumeTrigger_table (s : State) : (State.consumeTrigger s).table = s.table := by
  unfold State.consumeTrigger; split <;> rfl
@[simp] theorem State.consumeTrigger_fault (s : State) : (State.consumeTrigger s).fault = s.fault := by
  unfold State.consumeTrigger; split <;> rfl
@[simp] theorem State.consumeTrigger_faultInfo (s : State) : (State.consumeTrigger s).faultInfo = s.faultInfo := by
  unfold State.consumeTrigger; split <;> rfl
@[simp] theorem State.consumeTrigger_out (s : State) : (State.consumeTrigger s).out = s.out := by
  unfold State.consumeTrigger; split <;> rfl
@[simp] theorem State.consumeTrigger_cfg (s : State) : (State.consumeTrigger s).cfg = s.cfg := by
  unfold State.consumeTrigger; split <;> rfl
@[simp] theorem State.consumeTrigger_op (s : State) : (State.consumeTrigger s).op = s.op := by
  unfold State.consumeTrigger; split <;> rfl
@[simp] theorem State.consumeTrigger_pending (s : State) : (State.consumeTrigger s).pending = s.pending := by
  unfold State.consumeTrigger; split <;> rfl
@[simp] theorem State.consumeTrigger_responses (s : State) : (State.consumeTrigger s).responses = s.responses := by
  unfold State.consumeTrigger; split <;> rfl
@[simp] theorem State.consumeTrigger_draws (s : State) : (State.consumeTrigger s).draws = s.draws := by
  unfold State.consumeTrigger; split <;> rfl

/-! ### Reset -/

@[simp] theorem State.reset_eq : State.reset = State.resetWith Cfg.reference := rfl

end Sys2Proof.Machine
end

