-- ==== Sys2Proof/Laws/Ops.lean ====
section
/-! SUPPORT. Everything the shared end of an operation can answer. -/

namespace Sys2Proof.Machine

@[simp] theorem State.conclude_ok (s t : State) : s.conclude (.ok t) = .next t := rfl
@[simp] theorem State.conclude_raised (s : State) (r : Raise) : s.conclude (.error (.raised r)) = .next (s.raise r) := rfl
@[simp] theorem State.conclude_stuck (s : State) (f : Fault) : s.conclude (.error (.stuck f)) = .fault f := rfl

@[simp] theorem orRaise_ok {α : Type} (v : α) : orRaise (.ok v) = .ok v := rfl
@[simp] theorem orRaise_error {α : Type} (r : Raise) : orRaise (.error r : Except Raise α) = .error (.raised r) := rfl

@[simp] theorem State.respondWith_ok (s : State) (v : Value) : s.respondWith (.ok v) = .next (s.respond v) := rfl
@[simp] theorem State.respondWith_error (s : State) (r : Raise) : s.respondWith (.error r) = .next (s.raise r) := rfl

@[simp] theorem intResponse_ok (v : Int) : intResponse (.ok v) = .ok (.int v) := rfl
@[simp] theorem intResponse_error (r : Raise) : intResponse (.error r) = .error r := rfl

/-- The end of an operation answers a next state in two ways only: its body's state, or the old state with a fault raised. -/
theorem State.conclude_next {s t : State} {b : Except Stop State} (h : s.conclude b = .next t) :
    b = .ok t ∨ ∃ r, b = .error (.raised r) ∧ t = s.raise r := by
  cases b with
  | ok u => cases h; exact .inl rfl
  | error e =>
    cases e with
    | raised r => cases h; exact .inr ⟨r, rfl, rfl⟩
    | stuck f => cases h

/-- The end of an operation never refuses. -/
theorem State.conclude_not_refused (s : State) (b : Except Stop State) (r : Refusal) : s.conclude b ≠ .refused r := by
  cases b with
  | ok u => simp
  | error e => cases e <;> simp

/-- An operation that only responds always answers a next state: the response, or the fault. -/
theorem State.respondWith_next {s t : State} {b : Except Raise Value} (h : s.respondWith b = .next t) :
    (∃ v, b = .ok v ∧ t = s.respond v) ∨ ∃ r, b = .error r ∧ t = s.raise r := by
  cases b with
  | ok v => cases h; exact .inl ⟨v, rfl, rfl⟩
  | error r => cases h; exact .inr ⟨r, rfl, rfl⟩

theorem intResponse_error_iff {b : Except Raise Int} {r : Raise} : intResponse b = .error r ↔ b = .error r := by
  cases b <;> simp

end Sys2Proof.Machine
end

