-- ==== Sys2Proof/Laws/SoundMachine.lean ====
section
/-! SUPPORT. Everything one tick of the sound state machine can do, said once (43_sound_state_machine.md R211). -/

namespace Sys2Proof.Machine

/-- A completed tone step, with the entry it read, the sample it made and the amplitude it left (42_dds_engine.md R180). -/
theorem synthTone_ok {t : Tone} {s u : State} (h : synthTone t s = .ok u) :
    audible (toneFreq s t) = true ∧ ∃ raw x amp,
      Memory.read s.table (tableIndex (tonePhase s t)) = some raw ∧
      outputSample s.cfg s.voice0.amp.toInt raw.toInt = .ok x ∧
      envelope s.cfg (.tone t) s.voice0.elapsed.toNat s.voice0.amp.toInt = .ok amp ∧
      u = (s.setVoice0 (toneVoice s t amp)).emit x := by
  unfold synthTone at h
  split at h
  · cases h
  · next hf =>
    refine ⟨by simpa using hf, ?_⟩
    split at h
    · cases h
    · next raw hraw =>
      split at h
      · cases h
      · next x hx =>
        split at h
        · cases h
        · next amp hamp => cases h; exact ⟨raw, x, amp, hraw, hx, hamp, rfl⟩

/-- A completed tick of the state machine ran exactly one arm (R211). -/
theorem smTick_ok {s u : State} (h : smTick s = .ok u) :
    (s.voice0.state = .idle ∧ u = idleArm s) ∨
    (s.voice0.state = .playing .silent ∧ u = silentArm s) ∨
    ∃ t v, s.voice0.state = .playing (.tone t) ∧ synthTone t s = .ok v ∧ u = v.complete (.tone t) := by
  unfold smTick at h
  split at h
  · next hs => cases h; exact .inl ⟨hs, rfl⟩
  · next hs => cases h; exact .inr (.inl ⟨hs, rfl⟩)
  · next t hs =>
    unfold toneArm at h
    cases hv : synthTone t s with
    | ok v => rw [hv] at h; cases h; exact .inr (.inr ⟨t, v, hs, hv, rfl⟩)
    | error e => rw [hv] at h; cases h

/-- The law as the polynomial of R181. -/
theorem evalLaw_eq (l : Law) (x : Nat) : evalLaw l x = l.a * x ^ 2 + l.b * x + l.c := by
  unfold evalLaw; ring

/-- The range of R182 in Hz. -/
theorem audible_iff (f : Rat) : audible f = true ↔ 0 ≤ f ∧ f < 20000 := by
  have : (Config.sampleRate : Rat) / 2 = 20000 := by norm_num [Config.sampleRate]
  simp [audible, this]

/-- The index of a phase as a quotient (R163). -/
theorem tableIndex_eq (p : Word) : tableIndex p = p.toNat / 2 ^ 24 := by
  unfold tableIndex Config.indexShift
  rw [BitVec.toNat_ushiftRight, Nat.shiftRight_eq_div_pow]

/-- The accumulation on numbers (R184). -/
theorem accumulate_eq (a b : Word) : accumulate a b = BitVec.ofNat 32 (a.toNat + b.toNat) := by
  apply BitVec.eq_of_toNat_eq; simp [accumulate]

/-- The completion test after the increment, on numbers (R215). -/
theorem succ_toNat_eq_iff (w : Word) {d : Nat} (h0 : 0 < d) (hd : d ≤ 2 ^ 32 - 1) :
    (w + 1).toNat = d ↔ w.toNat + 1 = d := by
  have h := w.isLt
  have h1 : (1 : Word).toNat = 1 := rfl
  rw [BitVec.toNat_add, h1]
  omega

/-- The IDLE arm runs in IDLE (R211). -/
theorem smTick_of_idle {s : State} (h : s.voice0.state = .idle) : smTick s = .ok (idleArm s) := by
  unfold smTick; rw [h]

/-- The silent arm runs in the silent effect (R211). -/
theorem smTick_of_silent {s : State} (h : s.voice0.state = .playing .silent) : smTick s = .ok (silentArm s) := by
  unfold smTick; rw [h]

/-- The tone arm runs in a tone effect (R211). -/
theorem smTick_of_tone {s : State} {t : Tone} (h : s.voice0.state = .playing (.tone t)) : smTick s = toneArm t s := by
  unfold smTick; rw [h]

/-- An armed TICK (R242). -/
theorem execTick_running {s : State} (ctx : Nat) (h : s.lifecycle = .running) :
    execTick ctx s = s.conclude ((smTick s).map (State.setLastCtx (zextCtx ctx))) := by
  unfold execTick; rw [if_neg (by simp [h])]

/-- A TICK that is not armed (R242). -/
theorem execTick_not_running {s : State} (ctx : Nat) (h : s.lifecycle ≠ .running) :
    execTick ctx s = .next (s.raise { code := .timerNotArmed, info := s.lifecycle.info }) := by
  unfold execTick; rw [if_pos h]; rfl

/-- A completed armed tick of the state machine completes the TICK (R242). -/
theorem execTick_of_smTick {s u : State} (ctx : Nat) (h : s.lifecycle = .running) (hu : smTick s = .ok u) :
    execTick ctx s = .next (u.setLastCtx (zextCtx ctx)) := by
  rw [execTick_running ctx h, hu]; rfl

/-- A fault in the tick of the state machine faults the TICK (R242). -/
theorem execTick_of_smTick_raised {s : State} {r : Raise} (ctx : Nat) (h : s.lifecycle = .running)
    (hu : smTick s = .error (.raised r)) : execTick ctx s = .next (s.raise r) := by
  rw [execTick_running ctx h, hu]; rfl

/-- A TICK that answers a next state: not armed, a fault in its body, or its body's state with LAST_CTX recorded. -/
theorem execTick_next {s t : State} {ctx : Nat} (h : execTick ctx s = .next t) :
    (s.lifecycle ≠ .running ∧ t = s.raise { code := .timerNotArmed, info := s.lifecycle.info }) ∨
    (s.lifecycle = .running ∧ ∃ r, smTick s = .error (.raised r) ∧ t = s.raise r) ∨
    (s.lifecycle = .running ∧ ∃ u, smTick s = .ok u ∧ t = u.setLastCtx (zextCtx ctx)) := by
  by_cases hr : s.lifecycle = .running
  · rw [execTick_running ctx hr] at h
    cases hs : smTick s with
    | ok u => rw [hs] at h; cases h; exact .inr (.inr ⟨hr, u, rfl, rfl⟩)
    | error e =>
      rw [hs] at h
      cases e with
      | raised r => cases h; exact .inr (.inl ⟨hr, r, rfl, rfl⟩)
      | stuck f => cases h
  · rw [execTick_not_running ctx hr] at h
    cases h
    exact .inl ⟨hr, rfl⟩

/-- `zext_32(ctx)` of a context id (R95). -/
theorem zextCtx_of_lt {ctx : Nat} (h : ctx < 256) : zextCtx ctx = BitVec.ofNat 32 ctx := by
  apply BitVec.eq_of_toNat_eq
  simp [zextCtx]
  omega

/-- The effect that a tag names is the effect of that tag (R45, R46). -/
@[simp] theorem effectOfTrig_tag (e : Effect) : effectOfTrig (SoundState.playing e).tag = some e := by
  rcases e with t | _
  · cases t <;> rfl
  · rfl

/-- A trigger value that is no tag names no effect (R46). -/
theorem effectOfTrig_none_of {t : Byte} (h : t ∉ ([1, 2, 4, 5, 6, 7] : List Byte)) : effectOfTrig t = none := by
  revert t; decide

/-- `complete(e)` when the effect is not over (R215). -/
theorem State.complete_of_ne {s : State} {e : Effect} (h : s.voice0.elapsed.toNat ≠ s.cfg.duration e) : s.complete e = s := by
  unfold State.complete; rw [if_neg h]

/-- `complete(e)` on the effect's last tick (R215). -/
theorem State.complete_of_eq {s : State} {e : Effect} (h : s.voice0.elapsed.toNat = s.cfg.duration e) :
    s.complete e = s.returnToIdle := by
  unfold State.complete; rw [if_pos h]

/-- A trigger that names effect `e` is consumed (R212). -/
theorem State.consumeTrigger_some {s : State} {e : Effect} (h : effectOfTrig s.trig = some e) :
    s.consumeTrigger = s.enterEffect e := by
  unfold State.consumeTrigger; rw [h]

/-- A trigger that names no effect is left alone (R219). -/
theorem State.consumeTrigger_none {s : State} (h : effectOfTrig s.trig = none) : s.consumeTrigger = s := by
  unfold State.consumeTrigger; rw [h]

/-- A quiet tick's effect on the sink (R189). -/
theorem State.quietEmit_out (s : State) :
    s.quietEmit.out = if s.cfg.quietTickWrites then s.out ++ [quietSample s.cfg] else s.out := by
  unfold State.quietEmit; split <;> rfl

/-- A quiet tick changes the sink log and nothing else (R189). -/
theorem State.quietEmit_eq (s : State) :
    s.quietEmit = { s with out := s.out ++ if s.cfg.quietTickWrites then [quietSample s.cfg] else [] } := by
  unfold State.quietEmit
  cases s.cfg.quietTickWrites <;> simp [State.emit]

/-- The value a trigger write leaves is the old one or the new one, whatever the draw (R218). -/
theorem State.writeTrig_trig (v : Byte) (s : State) : (s.writeTrig v).trig = s.trig ∨ (s.writeTrig v).trig = v := by
  unfold State.writeTrig
  split
  · dsimp only; split
    · exact .inl rfl
    · exact .inr rfl
  · exact .inr rfl

/-- Without a collision the value is stored and nothing is drawn (R217). -/
theorem State.writeTrig_of_not_collides {v : Byte} {s : State} (h : collides s.trig v = false) :
    s.writeTrig v = s.setTrig v := by
  unfold State.writeTrig; rw [if_neg (by simp [h])]

end Sys2Proof.Machine
end

