-- ==== Sys2Proof/Laws/Step.lean ====
section
/-! SUPPORT. Everything one step can do, said once (00_scope.md R21, 60_exceptions.md R262). -/

namespace Sys2Proof.Machine

/-- What decode and the agent check make of the element being performed. -/
theorem decodeOp_cases (s : State) :
    (∃ e, decode s.op.word = .error e ∧
      decodeOp s = .stop (.next (s.raise { code := .illegalOp, info := .int s.op.word.toNat }))) ∨
    (∃ i, decode s.op.word = .ok i ∧ s.op.agent ≠ i.agent ∧
      decodeOp s = .stop (.next (s.raise { code := .wrongAgent, info := .int s.op.word.toNat }))) ∨
    (∃ i, decode s.op.word = .ok i ∧ s.op.agent = i.agent ∧ decodeOp s = .run i s) := by
  unfold decodeOp
  cases hd : decode s.op.word with
  | error e => exact .inl ⟨e, rfl, rfl⟩
  | ok i =>
    by_cases ha : s.op.agent = i.agent
    · exact .inr (.inr ⟨i, rfl, ha, by simp [ha]⟩)
    · exact .inr (.inl ⟨i, rfl, ha, by simp [ha]⟩)

/-- In an unfaulted state of a checked configuration, a step takes the first pending element and decodes it. -/
theorem step_takes {s : State} {e : Issue} {rest : List Issue} (hc : configOk s.cfg = true) (hf : s.fault = .none)
    (hp : s.pending = e :: rest) :
    step s = match decodeOp (s.accept e rest) with
      | .stop o => o
      | .run i t => exec i t := by
  have hfetch : fetch s = decodeOp (s.accept e rest) := by simp [fetch, hc, hf, hp]
  unfold step
  rw [hfetch] <;> rfl

/-- The step of an illegal word (R96). -/
theorem step_illegal {s : State} {e : Issue} {rest : List Issue} {r : IllegalWord} (hc : configOk s.cfg = true)
    (hf : s.fault = .none) (hp : s.pending = e :: rest) (hd : decode e.word = .error r) :
    step s = .next ((s.accept e rest).raise { code := .illegalOp, info := .int e.word.toNat }) := by
  rw [step_takes hc hf hp]
  unfold decodeOp
  rw [State.accept_op, hd]
  rfl

/-- The step of a legal word from the wrong agent (R101). -/
theorem step_wrongAgent {s : State} {e : Issue} {rest : List Issue} {i : Instr} (hc : configOk s.cfg = true)
    (hf : s.fault = .none) (hp : s.pending = e :: rest) (hd : decode e.word = .ok i) (ha : e.agent ≠ i.agent) :
    step s = .next ((s.accept e rest).raise { code := .wrongAgent, info := .int e.word.toNat }) := by
  rw [step_takes hc hf hp]
  unfold decodeOp
  rw [State.accept_op, hd]
  simp [ha]

/-- The step of a legal word from its agent. -/
theorem step_legal {s : State} {e : Issue} {rest : List Issue} {i : Instr} (hc : configOk s.cfg = true)
    (hf : s.fault = .none) (hp : s.pending = e :: rest) (hd : decode e.word = .ok i) (ha : e.agent = i.agent) :
    step s = exec i (s.accept e rest) := by
  rw [step_takes hc hf hp]
  unfold decodeOp
  rw [State.accept_op, hd]
  simp [ha]

/-- A step that answers a next state took one element, in an unfaulted state of a checked configuration, and either raised a
fault at decode or at the agent check, or ran the operation. -/
theorem step_next {s t : State} (h : step s = .next t) :
    configOk s.cfg = true ∧ s.fault = .none ∧ ∃ e rest, s.pending = e :: rest ∧
      ((∃ r, r.code ∈ [FaultCode.illegalOp, .wrongAgent] ∧ t = (s.accept e rest).raise r) ∨
       ∃ i, decode e.word = .ok i ∧ e.agent = i.agent ∧ exec i (s.accept e rest) = .next t) := by
  unfold step fetch at h
  by_cases hc : configOk s.cfg = false
  · simp [hc] at h
  by_cases hf : s.fault = .none
  · cases hp : s.pending with
    | nil => simp [hc, hf, hp] at h
    | cons e rest =>
      refine ⟨by simpa using hc, hf, e, rest, rfl, ?_⟩
      simp only [hc, hf, hp, ne_eq, not_true_eq_false, ↓reduceIte] at h
      rcases decodeOp_cases (s.accept e rest) with ⟨er, -, hr⟩ | ⟨i, -, -, hr⟩ | ⟨i, hi, ha, hr⟩
      · rw [hr] at h; cases h; exact .inl ⟨_, by simp, rfl⟩
      · rw [hr] at h; cases h; exact .inl ⟨_, by simp, rfl⟩
      · rw [hr] at h; exact .inr ⟨i, by simpa using hi, by simpa using ha, h⟩
  · simp [hc, hf] at h

/-- A run of one step more goes on from that step's state (R6). -/
theorem run_succ_of_next {s t : State} (k : Nat) (h : step s = .next t) :
    Sys2Proof.core.run (k + 1) s = Sys2Proof.core.run k t := by
  have e := Host.Core.run.eq_2 Sys2Proof.core s k
  rw [show Sys2Proof.core.step s = .next t from h] at e
  exact e

/-- A run of one step more either takes a step that answers a next state, or ends there. -/
theorem run_succ_cases (k : Nat) (s : State) :
    (∃ t, step s = .next t ∧ Sys2Proof.core.run (k + 1) s = Sys2Proof.core.run k t) ∨
    ∀ t, step s ≠ .next t ∧ Sys2Proof.core.run (k + 1) s ≠ .next t := by
  have e := Host.Core.run.eq_2 Sys2Proof.core s k
  cases h : step s with
  | next t => exact .inl ⟨t, rfl, run_succ_of_next k h⟩
  | fault r =>
    rw [show Sys2Proof.core.step s = .fault r from h] at e
    exact .inr fun t => ⟨by simp, fun hn => by cases e.symm.trans hn⟩
  | refused r =>
    rw [show Sys2Proof.core.step s = .refused r from h] at e
    exact .inr fun t => ⟨by simp, fun hn => by cases e.symm.trans hn⟩

/-- A run in two parts. -/
theorem run_add_of_next {m : Nat} (n : Nat) {s t : State} (h : Sys2Proof.core.run m s = .next t) :
    Sys2Proof.core.run (m + n) s = Sys2Proof.core.run n t := by
  induction m generalizing s with
  | zero => cases h; rw [Nat.zero_add]
  | succ k ih =>
    rcases run_succ_cases k s with ⟨u, hu, hr⟩ | hr
    · rw [hr] at h
      rw [show k + 1 + n = (k + n) + 1 by omega, run_succ_of_next _ hu]
      exact ih h
    · exact absurd h (hr t).2

end Sys2Proof.Machine
end

