-- ==== Sys2Proof/Laws/Exec.lean ====
section
/-! SUPPORT. Everything an operation can do, said once: the six ways in which `exec` answers a next state, and what each leaves
alone. -/

namespace Sys2Proof.Machine

/-- The thirteen operations that respond and write no state of the block (40_fixed_point.md R121, 44_scheduler.md R243). -/
def responders : List Instr :=
  [.mul15, .div15, .fromInt15, .toInt15, .fromFloat15, .toFloat15, .mul28, .div28, .fromInt28, .toInt28, .fromFloat28, .toFloat28,
   .readDiag]

theorem narrow32_error_code {p : OverflowPolicy} {v : Int} {r : Raise} (h : narrow32 p v = .error r) :
    r.code = .fxOverflow ∧ p = .fault := by
  refine ⟨by rw [narrow32_error h], ?_⟩
  cases p with
  | fault => rfl
  | wrap =>
    unfold narrow32 at h
    split at h <;> cases h

/-- What a responder answers: one response, or one fault of those its rule names (60_exceptions.md R263). FX_OVERFLOW comes only
under the fault policy (00_scope.md R19). -/
theorem exec_responder {i : Instr} (hi : i ∈ responders) (s : State) :
    (∃ v, exec i s = .next (s.respond v)) ∨
    ∃ r, exec i s = .next (s.raise r) ∧ r.code ∈ faultsOf i ∧ (r.code = .fxOverflow → s.cfg.overflowPolicy = .fault) := by
  have key : ∀ b : Except Raise Int, exec i s = s.respondWith (intResponse b) →
      (∀ r, b = .error r → r.code ∈ faultsOf i ∧ (r.code = .fxOverflow → s.cfg.overflowPolicy = .fault)) →
      (∃ v, exec i s = .next (s.respond v)) ∨ ∃ r, exec i s = .next (s.raise r) ∧ r.code ∈ faultsOf i ∧
        (r.code = .fxOverflow → s.cfg.overflowPolicy = .fault) := by
    intro b hb hr
    cases b with
    | ok v => exact .inl ⟨_, hb⟩
    | error r => exact .inr ⟨r, hb, hr r rfl⟩
  have narrow : ∀ v r, narrow32 s.cfg.overflowPolicy v = .error r →
      r.code = .fxOverflow ∧ s.cfg.overflowPolicy = .fault := fun v r h => narrow32_error_code h
  have divide : ∀ n a b r, divFx n s.cfg.overflowPolicy a b = .error r → r.code = .fxDivZero ∨
      (r.code = .fxOverflow ∧ s.cfg.overflowPolicy = .fault) := by
    intro n a b r h
    unfold divFx at h
    split at h
    · cases h; exact .inl rfl
    · exact .inr (narrow _ r h)
  cases i <;> simp [responders] at hi
  case readDiag => exact .inl ⟨_, rfl⟩
  case toInt15 => exact .inl ⟨_, rfl⟩
  case toInt28 => exact .inl ⟨_, rfl⟩
  case toFloat15 => exact .inl ⟨_, rfl⟩
  case toFloat28 => exact .inl ⟨_, rfl⟩
  case mul15 => exact key _ rfl fun r h => by simp [faultsOf, narrow _ r h]
  case mul28 => exact key _ rfl fun r h => by simp [faultsOf, narrow _ r h]
  case fromInt15 => exact key _ rfl fun r h => by simp [faultsOf, narrow _ r h]
  case fromInt28 => exact key _ rfl fun r h => by simp [faultsOf, narrow _ r h]
  case div15 => exact key _ rfl fun r h => by rcases divide 15 _ _ r h with h | h <;> simp [faultsOf, h]
  case div28 => exact key _ rfl fun r h => by rcases divide 28 _ _ r h with h | h <;> simp [faultsOf, h]
  case fromFloat15 =>
    exact key _ rfl fun r h => by simp [faultsOf, fromFloatFx_error (show fromFloatFx 15 _ = .error r from h)]
  case fromFloat28 =>
    exact key _ rfl fun r h => by simp [faultsOf, fromFloatFx_error (show fromFloatFx 28 _ = .error r from h)]

/-- BUILD_TABLE (R161). -/
theorem exec_buildTable_next {s t : State} (h : exec .buildTable s = .next t) :
    (s.lifecycle ≠ .uninit ∧ t = s.raise { code := .tableRebuild, info := s.lifecycle.info }) ∨
    (s.lifecycle = .uninit ∧ ∃ r, r.code = .fxFloatRange ∧ t = s.raise r) ∨
    (s.lifecycle = .uninit ∧ ∃ m, fillTable s.cfg (List.range Config.tableSize) s.table = .ok m ∧
      t = (s.setTable m).setLifecycle .ready) := by
  simp only [exec, execBuildTable] at h
  split at h
  · next hl => cases h; exact .inl ⟨hl, rfl⟩
  · next hl =>
    have hl : s.lifecycle = .uninit := by simpa using hl
    cases hm : fillTable s.cfg (List.range Config.tableSize) s.table with
    | ok m => rw [hm] at h; cases h; exact .inr (.inr ⟨hl, m, rfl, rfl⟩)
    | error r =>
      rw [hm] at h; cases h
      obtain ⟨k, -, hk⟩ := fillTable_error hm
      exact .inr (.inl ⟨hl, r, sineTableFn_error hk, rfl⟩)

/-- START_TIMER (R241). -/
theorem exec_startTimer_next {s t : State} (h : exec .startTimer s = .next t) :
    (s.lifecycle = .uninit ∧ t = s.raise { code := .notReady, info := s.lifecycle.info }) ∨
    (s.lifecycle = .running ∧ t = s.raise { code := .timerRearm, info := s.lifecycle.info }) ∨
    (s.lifecycle = .ready ∧ t = s.setLifecycle .running) := by
  simp only [exec, execStartTimer] at h
  split at h
  · next hl => cases h; exact .inl ⟨hl, rfl⟩
  · next hl => cases h; exact .inr (.inl ⟨hl, rfl⟩)
  · next hl => cases h; exact .inr (.inr ⟨hl, rfl⟩)

/-- The faults of the state machine's tick: never the code NONE. -/
theorem smTick_raised {s : State} {r : Raise} (h : smTick s = .error (.raised r)) :
    ∃ t, s.voice0.state = .playing (.tone t) ∧ synthTone t s = .error (.raised r) := by
  unfold smTick at h
  split at h
  · cases h
  · cases h
  · next t hs =>
    unfold toneArm at h
    cases hv : synthTone t s with
    | ok v => rw [hv] at h; cases h
    | error e => rw [hv] at h; cases h; exact ⟨t, hs, hv⟩

/-- The faults of a ramp's increment. -/
theorem rampInc_error {c : Cfg} {n : Nat} {r : Raise} (h : rampInc c n = .error r) :
    r.code = .fxDivZero ∨ r.code = .fxOverflow := by
  unfold rampInc at h
  split at h
  · exact divFx_error h
  · next e he => cases h; exact .inr (fromIntFx_error he)

/-- The faults of the envelope. -/
theorem envelope_error {c : Cfg} {e : Effect} {x : Nat} {amp : Int} {r : Raise} (h : envelope c e x amp = .error r) :
    r.code = .fxDivZero ∨ r.code = .fxOverflow := by
  have key : ∀ k (b : Except Raise Int), (∀ r, b = .error r → r.code = .fxDivZero ∨ r.code = .fxOverflow) →
      addRamp c.overflowPolicy amp k b = .error r → r.code = .fxDivZero ∨ r.code = .fxOverflow := by
    intro k b hb h
    unfold addRamp at h
    split at h
    · exact .inr (by rw [narrow32_error h])
    · next e => exact hb _ h
  unfold envelope at h
  split at h
  · exact key _ _ (fun r => rampInc_error) h
  · split at h
    · exact key _ _ (fun r => rampInc_error) h
    · cases h

/-- The faults of a tone step. -/
theorem synthTone_raised {t : Tone} {s : State} {r : Raise} (h : synthTone t s = .error (.raised r)) :
    (audible (toneFreq s t) = false ∧ r = { code := .freqRange, info := .rat (toneFreq s t) }) ∨
    r.code = .fxDivZero ∨ r.code = .fxOverflow := by
  unfold synthTone at h
  split at h
  · next hf => cases h; exact .inl ⟨hf, rfl⟩
  · split at h
    · cases h
    · next raw _ =>
      split at h
      · next e he =>
        cases h
        unfold outputSample at he
        cases hm : mul15 s.cfg.overflowPolicy s.voice0.amp.toInt raw.toInt with
        | ok v => rw [hm] at he; cases he
        | error r' => rw [hm] at he; cases he; exact .inr (.inr (mulFx_error hm))
      · split at h
        · next e he => cases h; exact .inr (envelope_error he)
        · cases h

/-- Every way in which an operation answers a next state. -/
theorem exec_next {i : Instr} {s t : State} (h : exec i s = .next t) :
    (∃ r, r.code ≠ .none ∧ t = s.raise r) ∨
    (i ∈ responders ∧ ∃ v, t = s.respond v) ∨
    (i = .buildTable ∧ s.lifecycle = .uninit ∧ ∃ m, fillTable s.cfg (List.range Config.tableSize) s.table = .ok m ∧
      t = (s.setTable m).setLifecycle .ready) ∨
    (i = .startTimer ∧ s.lifecycle = .ready ∧ t = s.setLifecycle .running) ∨
    (∃ v, i = .writeTrigger v ∧ t = s.writeTrig (trigImm v)) ∨
    (∃ c u, i = .tick c ∧ s.lifecycle = .running ∧ smTick s = .ok u ∧ t = u.setLastCtx (zextCtx c)) := by
  by_cases hi : i ∈ responders
  · rcases exec_responder hi s with ⟨v, hv⟩ | ⟨r, hr, hc, -⟩
    · rw [hv] at h; cases h; exact .inr (.inl ⟨hi, v, rfl⟩)
    · rw [hr] at h; cases h
      refine .inl ⟨r, ?_, rfl⟩
      intro hn
      rw [hn] at hc
      cases i <;> simp [faultsOf] at hc hi
  · cases i <;> simp [responders] at hi
    case buildTable =>
      rcases exec_buildTable_next h with ⟨-, rfl⟩ | ⟨-, r, hr, rfl⟩ | h
      · exact .inl ⟨_, by simp, rfl⟩
      · exact .inl ⟨r, by simp [hr], rfl⟩
      · exact .inr (.inr (.inl ⟨rfl, h⟩))
    case startTimer =>
      rcases exec_startTimer_next h with ⟨-, rfl⟩ | ⟨-, rfl⟩ | h
      · exact .inl ⟨_, by simp, rfl⟩
      · exact .inl ⟨_, by simp, rfl⟩
      · exact .inr (.inr (.inr (.inl ⟨rfl, h⟩)))
    case writeTrigger v => cases h; exact .inr (.inr (.inr (.inr (.inl ⟨v, rfl, rfl⟩))))
    case tick c =>
      rcases execTick_next h with ⟨-, rfl⟩ | ⟨-, r, hr, rfl⟩ | ⟨hl, u, hu, rfl⟩
      · exact .inl ⟨_, by simp, rfl⟩
      · obtain ⟨t, -, ht⟩ := smTick_raised hr
        refine .inl ⟨r, ?_, rfl⟩
        rcases synthTone_raised ht with ⟨-, rfl⟩ | h | h <;> simp [*]
      · exact .inr (.inr (.inr (.inr (.inr ⟨c, u, rfl, hl, hu, rfl⟩))))

/-- What a completed tick of the state machine leaves alone: everything but voice 0, TRIG and OUT. -/
theorem smTick_frame {s u : State} (h : smTick s = .ok u) :
    u.voice1 = s.voice1 ∧ u.lastCtx = s.lastCtx ∧ u.lifecycle = s.lifecycle ∧ u.table = s.table ∧ u.fault = s.fault ∧
      u.faultInfo = s.faultInfo ∧ u.cfg = s.cfg ∧ u.op = s.op ∧ u.pending = s.pending ∧ u.responses = s.responses ∧
      u.draws = s.draws := by
  rcases smTick_ok h with ⟨-, rfl⟩ | ⟨-, rfl⟩ | ⟨t, v, -, hv, rfl⟩
  · simp [idleArm]
  · simp [silentArm]
  · obtain ⟨-, raw, x, amp, -, -, -, rfl⟩ := synthTone_ok hv
    simp

/-- What a completed tick of the state machine emits. -/
theorem smTick_out {s u : State} (h : smTick s = .ok u) :
    (u.out = s.out ∧ s.cfg.quietTickWrites = false) ∨ ∃ x, u.out = s.out ++ [x] := by
  have quiet : ∀ v : State, v.cfg = s.cfg → v.out = s.out → u.out = v.quietEmit.out →
      (u.out = s.out ∧ s.cfg.quietTickWrites = false) ∨ ∃ x, u.out = s.out ++ [x] := by
    intro v hc ho hu
    rw [hu, State.quietEmit_out, hc, ho]
    cases s.cfg.quietTickWrites
    · exact .inl ⟨rfl, rfl⟩
    · exact .inr ⟨_, rfl⟩
  rcases smTick_ok h with ⟨-, rfl⟩ | ⟨-, rfl⟩ | ⟨t, v, -, hv, rfl⟩
  · exact quiet s.consumeTrigger (by simp) (by simp) (by simp [idleArm])
  · exact quiet s rfl rfl (by simp [silentArm])
  · obtain ⟨-, raw, x, amp, -, -, -, rfl⟩ := synthTone_ok hv
    exact .inr ⟨x, by simp⟩

/-! ### Host operations that a run can hold between ticks (R220) -/

/-- A trigger write of any value completes. -/
theorem hostCompletes_trigger (c : Cfg) {e : Issue} (h : IsTriggerWrite e) : HostCompletes c e := by
  obtain ⟨v, p, hv, rfl⟩ := h
  exact ⟨rfl, _, decode_writeTrigger hv, rfl, fun s _ _ _ hf => ⟨_, rfl, (State.writeTrig_fault ..).trans hf⟩⟩

/-- READ_DIAG completes. -/
theorem hostCompletes_readDiag (c : Cfg) (p : Ports) : HostCompletes c { agent := .host, word := encode .readDiag, ports := p } :=
  ⟨rfl, .readDiag, (by decide : decode (encode .readDiag) = .ok .readDiag), rfl, fun _ _ _ _ hf => ⟨_, rfl, hf⟩⟩

/-- A fixed-point operation completes if its result does. -/
theorem hostCompletes_of_next {c : Cfg} {e : Issue} {i : Instr} (ha : e.agent = .host) (hd : decode e.word = .ok i)
    (hi : i.agent = .host) (h : ∀ s : State, s.cfg = c → s.op = e → ∃ v, exec i s = .next (s.respond v)) : HostCompletes c e :=
  ⟨ha, i, hd, hi, fun s hc ho _ hf => (h s hc ho).elim fun _ hv => ⟨_, hv, hf⟩⟩

end Sys2Proof.Machine
end

