-- ==== Sys2Proof/Laws/Envelope.lean ====
section
/-! SUPPORT. The envelope against its plan, and a tone step in a state that meets the invariant (42_dds_engine.md R186 to R193). -/

namespace Sys2Proof.Machine

@[simp] theorem plannedAmp_zero (c : Cfg) (d : Nat) : plannedAmp c d 0 = 0 := by simp [plannedAmp]

/-- The planned amplitude with the increments' values. -/
theorem plannedAmp_eq {c : Cfg} (h : configOk c = true) (d x : Nat) : plannedAmp c d x =
    (min x c.attackTime : Nat) * ⌊(c.maxAmplitude : Rat) / c.attackTime⌋
      - (x - (d - c.decayTime + 1) : Nat) * ⌊(c.maxAmplitude : Rat) / c.decayTime⌋ := by
  obtain ⟨ia, id⟩ := increments_of_configOk h
  simp only [plannedAmp, ia, id, incValue]

/-- One envelope step follows the plan, on every tick of an effect but its last (R187). -/
theorem envelope_planned {c : Cfg} {e : Effect} {x : Nat} (h : configOk c = true) (hx : x + 1 < c.duration e) :
    envelope c e x (plannedAmp c (c.duration e) x) = .ok (plannedAmp c (c.duration e) (x + 1)) := by
  obtain ⟨ia, id⟩ := increments_of_configOk h
  have hd := (duration_of_configOk h e).1
  have hm := (checkAmplitude_iff _).mp ((configOk_iff _).mp h).2.2.1
  have r1 := plannedAmp_range h hd hx
  have e1 : fitsS32 (plannedAmp c (c.duration e) (x + 1)) = true := by rw [fitsS32_iff]; omega
  unfold envelope
  rw [ia, id]
  unfold addRamp
  split
  · next hlt =>
    have : plannedAmp c (c.duration e) x + 1 * ⌊(c.maxAmplitude : Rat) / c.attackTime⌋
        = plannedAmp c (c.duration e) (x + 1) := by
      rw [plannedAmp_eq h, plannedAmp_eq h, Nat.min_eq_left hlt.le, Nat.min_eq_left hlt,
        show x - (c.duration e - c.decayTime + 1) = 0 by omega, show x + 1 - (c.duration e - c.decayTime + 1) = 0 by omega]
      push_cast; ring
    show narrow32 _ _ = _
    rw [this]; exact narrow32_of_fits e1
  · split
    · next hge hlt =>
      have : plannedAmp c (c.duration e) x + -1 * ⌊(c.maxAmplitude : Rat) / c.decayTime⌋
          = plannedAmp c (c.duration e) (x + 1) := by
        rw [plannedAmp_eq h, plannedAmp_eq h, Nat.min_eq_right (by omega), Nat.min_eq_right (by omega),
          show x + 1 - (c.duration e - c.decayTime + 1) = (x - (c.duration e - c.decayTime + 1)) + 1 by omega]
        push_cast; ring
      show narrow32 _ _ = _
      rw [this]; exact narrow32_of_fits e1
    · next hge hge2 =>
      congr 1
      rw [plannedAmp_eq h, plannedAmp_eq h, Nat.min_eq_right (by omega), Nat.min_eq_right (by omega),
        show x - (c.duration e - c.decayTime + 1) = 0 by omega, show x + 1 - (c.duration e - c.decayTime + 1) = 0 by omega]

/-- One envelope step never overflows, the last tick of an effect included (R137). -/
theorem envelope_fits {c : Cfg} {e : Effect} {x : Nat} (h : configOk c = true) (hx : x < c.duration e) :
    ∃ a, envelope c e x (plannedAmp c (c.duration e) x) = .ok a ∧ fitsS32 a = true := by
  obtain ⟨ia, id⟩ := increments_of_configOk h
  have hd := (duration_of_configOk h e).1
  obtain ⟨h1, h2, h3, -⟩ := (configOk_iff c).mp h
  have hm := (checkAmplitude_iff _).mp h3
  have r1 := plannedAmp_range h hd hx
  have r2 := rampInc_of_check h1 h3
  have r3 := rampInc_of_check h2 h3
  rw [floor_div_nat] at ia id
  have b1 : c.maxAmplitude / (c.attackTime : Int) ≤ c.maxAmplitude := Int.ediv_le_self _ (by omega)
  have b2 : 0 ≤ c.maxAmplitude / (c.attackTime : Int) := Int.ediv_nonneg (by omega) (by omega)
  have b3 : c.maxAmplitude / (c.decayTime : Int) ≤ c.maxAmplitude := Int.ediv_le_self _ (by omega)
  have b4 : 0 ≤ c.maxAmplitude / (c.decayTime : Int) := Int.ediv_nonneg (by omega) (by omega)
  unfold envelope
  rw [ia, id]
  unfold addRamp
  split
  · exact ⟨_, narrow32_of_fits (by rw [fitsS32_iff]; omega), by rw [fitsS32_iff]; omega⟩
  · split
    · exact ⟨_, narrow32_of_fits (by rw [fitsS32_iff]; omega), by rw [fitsS32_iff]; omega⟩
    · exact ⟨_, rfl, by rw [fitsS32_iff]; omega⟩

/-- The output multiply never overflows in the amplitude's range (R137, R193). -/
theorem outputSample_ok (c : Cfg) {amp raw : Int} (h0 : 0 ≤ amp) (h1 : amp ≤ 32768) (hr : fitsS32 raw = true) :
    ∃ x, outputSample c amp raw = .ok x := by
  have : fitsS32 (sar (amp * raw) 15) = true := by
    rw [fitsS32_iff] at *
    unfold sar
    have : amp * raw ≤ 32768 * (2 ^ 31 - 1) := by nlinarith
    have : -(32768 * 2 ^ 31) ≤ amp * raw := by nlinarith
    omega
  exact ⟨_, by simp only [outputSample, mul15, mulFx, narrow32_of_fits this]; rfl⟩

/-- A tone step completes where the invariant holds and the law is in range. -/
theorem synthTone_completes {s : State} {t : Tone} (hc : configOk s.cfg = true) (hi : s.Inv) (hl : s.lifecycle = .running)
    (hs : s.voice0.state = .playing (.tone t)) (ha : audible (toneFreq s t) = true) :
    ∃ amp x, synthTone t s = .ok ((s.setVoice0 (toneVoice s t amp)).emit x) := by
  have hb := hi.elapsed_bound _ hs
  obtain ⟨a, he, -⟩ := envelope_fits hc hb
  rw [← hi.tone_amp t hs] at he
  obtain ⟨v, -, hr⟩ := hi.table_built (by simp [hl]) (tableIndex (tonePhase s t)) (tableIndex_lt _)
  have r1 := plannedAmp_range hc (duration_of_configOk hc (.tone t)).1 hb
  rw [← hi.tone_amp t hs] at r1
  have hm := (checkAmplitude_iff _).mp ((configOk_iff _).mp hc).2.2.1
  obtain ⟨x, hx⟩ := outputSample_ok s.cfg (raw := (toReg v).toInt) r1.1 (by omega) (toInt_fits _)
  refine ⟨a, x, ?_⟩
  unfold synthTone
  rw [if_neg (by simp [ha]), hr]
  simp only [hx, he]

/-- The completion test, both ways (R215). -/
theorem State.complete_cases (s : State) (e : Effect) :
    (s.voice0.elapsed.toNat = s.cfg.duration e ∧ s.complete e = s.returnToIdle) ∨
    (s.voice0.elapsed.toNat ≠ s.cfg.duration e ∧ s.complete e = s) := by
  by_cases h : s.voice0.elapsed.toNat = s.cfg.duration e
  · exact .inl ⟨h, State.complete_of_eq h⟩
  · exact .inr ⟨h, State.complete_of_ne h⟩

end Sys2Proof.Machine
end

