-- ==== Sys2Proof/Laws/PerInstr.lean ====
section
/-! SUPPORT. A statement about the encoding of every operation, one lemma for each constructor. -/

/-- The encoding of a well-formed operation lies in its row of the opcode table: `word & mask = match` (30_encoding.md R94). -/
def Sys2Proof.Laws.MatchMask.Statement (i : Sys2Proof.Instr) : Prop :=
  i.WellFormed → Sys2Proof.encode i &&& i.maskWord = i.matchWord

namespace Sys2Proof.Laws.MatchMask

theorem buildTable : Statement .buildTable := by unfold Statement; decide
theorem startTimer : Statement .startTimer := by unfold Statement; decide
theorem tick (ctx : Nat) : Statement (.tick ctx) := by
  intro h
  have h : ctx < 256 := by simpa [Instr.WellFormed, Instr.wellFormed] using h
  interval_cases ctx <;> decide
theorem writeTrigger (imm8 : Nat) : Statement (.writeTrigger imm8) := by
  intro h
  have h : imm8 < 256 := by simpa [Instr.WellFormed, Instr.wellFormed] using h
  interval_cases imm8 <;> decide
theorem readDiag : Statement .readDiag := by unfold Statement; decide
theorem mul15 : Statement .mul15 := by unfold Statement; decide
theorem div15 : Statement .div15 := by unfold Statement; decide
theorem fromInt15 : Statement .fromInt15 := by unfold Statement; decide
theorem toInt15 : Statement .toInt15 := by unfold Statement; decide
theorem fromFloat15 : Statement .fromFloat15 := by unfold Statement; decide
theorem toFloat15 : Statement .toFloat15 := by unfold Statement; decide
theorem mul28 : Statement .mul28 := by unfold Statement; decide
theorem div28 : Statement .div28 := by unfold Statement; decide
theorem fromInt28 : Statement .fromInt28 := by unfold Statement; decide
theorem toInt28 : Statement .toInt28 := by unfold Statement; decide
theorem fromFloat28 : Statement .fromFloat28 := by unfold Statement; decide
theorem toFloat28 : Statement .toFloat28 := by unfold Statement; decide

end Sys2Proof.Laws.MatchMask
end

