-- ==== Sys2Proof/Tests/Slice0.lean ====
section
/-! SUPPORT. The model's own tests: ill-formed terms and configurations refused, words written out from 30_encoding.md R91 and R94,
one-step results taken from 95_test_vectors.md, and for each statement with hypotheses a state and operands that meet them. -/

namespace Sys2Proof.Tests

open Sys2Proof Sys2Proof.Machine

/-! ### Small states -/

/-- Reset under the spec's test configuration TC (92_eei_decisions.md D43). -/
def tc : State := State.resetWith Cfg.test

/-- TC under the wrap policy. -/
def tcWrap : State := State.resetWith { Cfg.test with overflowPolicy := .wrap }

/-- The same state performing an operation with ports A and B. -/
def withAB (s : State) (a b : Int) : State := { s with op := { s.op with ports := { a := toReg a, b := toReg b, f := mkRat 0 1 } } }

/-- The same state performing an operation with port F. -/
def withF (s : State) (f : Rat) : State := { s with op := { s.op with ports := { a := 0, b := 0, f := f } } }

/-- The table BUILD_TABLE leaves under the reference table (41_oscillator_table.md R166). -/
def builtTable : Memory := (List.range 256).map fun i => (i, toReg (refTable.getD i 0))

/-- TC in RUNNING, voice 0 as given. -/
def running (c : Cfg) (v : Voice) : State := { State.resetWith c with lifecycle := .running, table := builtTable, voice0 := v }

/-- TC in RUNNING and IDLE, with a trigger value. -/
def idleWith (t : Byte) : State := { running Cfg.test Voice.reset with trig := t }

/-- TC in RUNNING, playing a tone. -/
def toneAt (t : Tone) (phase amp : Word) (x : Nat) : State :=
  running Cfg.test { state := .playing (.tone t), phase := phase, amp := amp, elapsed := BitVec.ofNat 32 x }

/-- TC in RUNNING, in the silent effect. -/
def silentAt (x : Nat) : State := running Cfg.test { state := .playing .silent, phase := 5, amp := 0, elapsed := BitVec.ofNat 32 x }

/-- The responses of an operation that completed without a fault. -/
def resp : Host.Outcome State Fault Refusal → Option (List Value)
  | .next t => if t.fault = .none then some t.responses else none
  | _ => none

/-- The fault code and the info value an operation raised. -/
def raised : Host.Outcome State Fault Refusal → Option (FaultCode × Option Value)
  | .next t => some (t.fault, t.faultInfo.map FaultInfo.info)
  | _ => none

/-- What a tick leaves: state tag, phase, amplitude, elapsed count, trigger, diagnostic record, then the samples. -/
def ticked : Host.Outcome State Fault Refusal → Option (List Int)
  | .next t =>
    if t.fault = .none then
      some ([(t.voice0.state.tag.toNat : Int), t.voice0.phase.toNat, t.voice0.amp.toInt, t.voice0.elapsed.toNat, t.trig.toNat,
        t.lastCtx.toNat] ++ t.out.map fun x => (x.toNat : Int))
    else none
  | _ => none

/-! ### WellFormed: one ill-formed term for each check (30_encoding.md R91, R102) -/

theorem test_wellFormed_tick_refuses : (Instr.tick 256).wellFormed = false := by decide
theorem test_wellFormed_tick_accepts : (Instr.tick 255).wellFormed = true := by decide
theorem test_wellFormed_writeTrigger_refuses : (Instr.writeTrigger 256).wellFormed = false := by decide
theorem test_wellFormed_writeTrigger_accepts : (Instr.writeTrigger 255).wellFormed = true := by decide

/-! ### Configuration checks: one bad configuration for each (00_scope.md R9 to R15) -/

theorem test_config_reference : configOk Cfg.reference = true := by decide
theorem test_config_test : configOk Cfg.test = true := by decide
theorem test_config_geometry_size : checkGeometry 255 24 32 = false := by decide
theorem test_config_geometry_shift : checkGeometry 256 23 32 = false := by decide
theorem test_config_attack_zero : configOk { Cfg.test with attackTime := 0 } = false := by decide
theorem test_config_attack_sizing : configOk { Cfg.reference with attackTime := 250 } = false := by decide
theorem test_config_decay_sizing : configOk { Cfg.reference with decayTime := 250 } = false := by decide
theorem test_config_amplitude : configOk { Cfg.test with maxAmplitude := 32769 } = false := by decide
theorem test_config_duration :
    configOk { Cfg.test with durations := { Cfg.test.durations with silent := 4 } } = false := by decide
theorem test_config_duration_wide :
    configOk { Cfg.test with durations := { Cfg.test.durations with linearB := 4294967296 } } = false := by decide
theorem test_config_law_linear :
    configOk { Cfg.test with laws := { Cfg.test.laws with linearB := Config.law2 } } = false := by decide
theorem test_config_law_descending :
    configOk { Cfg.test with laws := { Cfg.test.laws with descend := Cfg.test.laws.linearB } } = false := by decide
theorem test_config_law_distinct :
    configOk { Cfg.test with laws := { Cfg.test.laws with parabolaB := Config.law2 } } = false := by decide
theorem test_config_output_offset : configOk { Cfg.test with dcOffset := 65536 } = false := by decide
theorem test_config_output_peak : configOk { Cfg.test with peakAmplitude := mkRat 65536 1 } = false := by decide

/-! ### Decoding: every operation's word, bit by bit from R91 and R94 (opc, rsv, ctx, imm8) -/

theorem test_decode_buildTable : decode 0b00000001_00000000_00000000_00000000 = .ok .buildTable := by decide
theorem test_decode_startTimer : decode 0b00000010_00000000_00000000_00000000 = .ok .startTimer := by decide
theorem test_decode_tick : decode 0b00000011_00000000_10000001_00000000 = .ok (.tick 129) := by decide
theorem test_decode_writeTrigger : decode 0b00000100_00000000_00000000_10000110 = .ok (.writeTrigger 134) := by decide
theorem test_decode_readDiag : decode 0b00000101_00000000_00000000_00000000 = .ok .readDiag := by decide
theorem test_decode_mul15 : decode 0b00010000_00000000_00000000_00000000 = .ok .mul15 := by decide
theorem test_decode_div15 : decode 0b00010001_00000000_00000000_00000000 = .ok .div15 := by decide
theorem test_decode_fromInt15 : decode 0b00010010_00000000_00000000_00000000 = .ok .fromInt15 := by decide
theorem test_decode_toInt15 : decode 0b00010011_00000000_00000000_00000000 = .ok .toInt15 := by decide
theorem test_decode_fromFloat15 : decode 0b00010100_00000000_00000000_00000000 = .ok .fromFloat15 := by decide
theorem test_decode_toFloat15 : decode 0b00010101_00000000_00000000_00000000 = .ok .toFloat15 := by decide
theorem test_decode_mul28 : decode 0b00100000_00000000_00000000_00000000 = .ok .mul28 := by decide
theorem test_decode_div28 : decode 0b00100001_00000000_00000000_00000000 = .ok .div28 := by decide
theorem test_decode_fromInt28 : decode 0b00100010_00000000_00000000_00000000 = .ok .fromInt28 := by decide
theorem test_decode_toInt28 : decode 0b00100011_00000000_00000000_00000000 = .ok .toInt28 := by decide
theorem test_decode_fromFloat28 : decode 0b00100100_00000000_00000000_00000000 = .ok .fromFloat28 := by decide
theorem test_decode_toFloat28 : decode 0b00100101_00000000_00000000_00000000 = .ok .toFloat28 := by decide

/-- V-SC7 to V-SC10 and V-SC13: one word for each of the cases (a) to (d) of R96. -/
theorem test_decode_illegal :
    decode 0x00000000 = .error .reservedOpcode ∧ decode 0x06000000 = .error .reservedOpcode ∧
    decode 0x03010000 = .error .reservedField ∧ decode 0x04000102 = .error .ctxNotZero ∧
    decode 0x01000001 = .error .imm8NotZero := by decide

theorem test_decodeTableWord :
    decodeTableWord 32 0x0300FF00 = some (.tick 255) ∧ decodeTableWord 32 0x16000000 = none ∧
    decodeTableWord 24 0x10000000 = none := by decide

/-! ### One step of each operation: expected values from 95_test_vectors.md -/

/-- V-FX5. -/
theorem test_mul15_floor : resp (exec .mul15 (withAB tc (-3) 16384)) = some [.int (-2)] := by decide
/-- V-FX6, both policies. -/
theorem test_mul15_overflow :
    raised (exec .mul15 (withAB tc 0x7FFFFFFF 0x7FFFFFFF)) = some (.fxOverflow, some (.int 140737488224256)) ∧
    resp (exec .mul15 (withAB tcWrap 0x7FFFFFFF 0x7FFFFFFF)) = some [.int (-131072)] := by decide
/-- V-FX13. -/
theorem test_div15_trunc : resp (exec .div15 (withAB tc (-32768) 98304)) = some [.int (-10922)] := by decide
/-- V-FX12 and V-FX16. -/
theorem test_div15_faults :
    raised (exec .div15 (withAB tc 5 0)) = some (.fxDivZero, some (.int 5)) ∧
    resp (exec .div15 (withAB tcWrap 0x7FFFFFFF 1)) = some [.int (-32768)] := by decide
/-- V-FX18. -/
theorem test_fromInt15 : resp (exec .fromInt15 (withAB tc (-65536) 0)) = some [.int (-2147483648)] := by decide
/-- V-FX19. -/
theorem test_fromInt15_wrap : resp (exec .fromInt15 (withAB tcWrap 70000 0)) = some [.int (-2001207296)] := by decide
/-- V-FX20. -/
theorem test_toInt15 : resp (exec .toInt15 (withAB tc (-32769) 0)) = some [.int (-2)] := by decide
/-- V-FX22. -/
theorem test_fromFloat15 : resp (exec .fromFloat15 (withF tc (mkRat (-1) 3))) = some [.int (-10922)] := by decide
/-- V-FX23. -/
theorem test_fromFloat15_range :
    raised (exec .fromFloat15 (withF tc (mkRat 65536 1))) = some (.fxFloatRange, some (.rat (mkRat 65536 1))) := by decide
/-- V-FX24. -/
theorem test_toFloat15 : resp (exec .toFloat15 (withAB tc (-1) 0)) = some [.rat (mkRat (-1) 32768)] := by decide +kernel
/-- V-FX24 under binary32_rne. -/
theorem test_toFloat15_binary32 :
    resp (exec .toFloat15 (withAB (State.resetWith { Cfg.test with toFloatRounding := .binary32Rne }) 0x7FFFFFFF 0)) =
      some [.rat (mkRat 65536 1)] := by decide +kernel
/-- V-FX25. -/
theorem test_mul28 : resp (exec .mul28 (withAB tc (-3) 134217728)) = some [.int (-2)] := by decide
/-- V-FX25. -/
theorem test_mul28_overflow :
    raised (exec .mul28 (withAB tc 1073741824 1073741824)) = some (.fxOverflow, some (.int 4294967296)) := by decide
/-- V-FX26. -/
theorem test_div28 : resp (exec .div28 (withAB tc 268435456 805306368)) = some [.int 89478485] := by decide
/-- V-FX26. -/
theorem test_div28_zero : raised (exec .div28 (withAB tc 1 0)) = some (.fxDivZero, some (.int 1)) := by decide
/-- V-FX27. -/
theorem test_fromInt28 : resp (exec .fromInt28 (withAB tc 7 0)) = some [.int 1879048192] := by decide
/-- V-FX27. -/
theorem test_fromInt28_overflow :
    raised (exec .fromInt28 (withAB tc (-9) 0)) = some (.fxOverflow, some (.int (-2415919104))) := by decide
/-- V-FX28. -/
theorem test_toInt28 : resp (exec .toInt28 (withAB tc 2147483647 0)) = some [.int 7] := by decide
/-- V-FX29: the two rationals written 0.1. -/
theorem test_fromFloat28 :
    resp (exec .fromFloat28 (withF tc (mkRat 1 10))) = some [.int 26843545] ∧
    resp (exec .fromFloat28 (withF tc (mkRat 13421773 134217728))) = some [.int 26843546] := by decide
/-- V-FX29. -/
theorem test_fromFloat28_range :
    raised (exec .fromFloat28 (withF tc (mkRat 8 1))) = some (.fxFloatRange, some (.rat (mkRat 8 1))) := by decide
/-- V-FX30. -/
theorem test_toFloat28 : resp (exec .toFloat28 (withAB tc (-2147483648) 0)) = some [.rat (mkRat (-8) 1)] := by decide +kernel

/-- V-TB1 to V-TB9: the values BUILD_TABLE writes. -/
theorem test_buildTable_entries : [0, 1, 63, 64, 127, 129, 160, 192, 255].map (sineTableFn Cfg.test) =
    [.ok 0, .ok 1646129, .ok 67055893, .ok 67076096, .ok 1646129, .ok (-1646129), .ok (-47429962), .ok (-67076096),
      .ok (-1646129)] := by decide +kernel
/-- R160 at other peaks: 1000 * sin(pi/4) * 2^15 = 23170475.006, 2047.5 times the same 47441547.575, and -0.1 times it -2317.05. -/
theorem test_sine_peaks :
    [mkRat 1000 1, mkRat 4095 2, mkRat (-1) 10].map (fun p => peakSine p 32) = [23170475, 47441547, -2317] := by decide +kernel

/-- A deployed table that holds its own index, less 2^31. -/
def deployedTable : Vector Word 256 := Vector.ofFn fun i => BitVec.ofNat 32 (2 ^ 31 + i.val)

/-- R165: a deployed table is taken as it is, over the whole of s32. -/
theorem test_sine_deployed :
    [0, 1, 255].map (sineTableFn { Cfg.test with sineTable := .deployed deployedTable }) =
      [.ok (-2147483648), .ok (-2147483647), .ok (-2147483393)] := by decide +kernel

/-- P7, third line. -/
theorem test_buildTable_again : raised (exec .buildTable (idleWith 0)) = some (.tableRebuild, some (.int 2)) := by decide +kernel
/-- V-SC1 and V-SC2. -/
theorem test_startTimer :
    raised (exec .startTimer tc) = some (.notReady, some (.int 0)) ∧
    raised (exec .startTimer (idleWith 0)) = some (.timerRearm, some (.int 2)) := by decide +kernel
/-- V-SM12 and V-SM11. -/
theorem test_writeTrigger :
    (match exec (.writeTrigger 0) (idleWith 6) with | .next t => some t.trig | _ => none) = some 0 ∧
    (match exec (.writeTrigger 2) (idleWith 2) with | .next t => some t.trig | _ => none) = some 2 := by decide +kernel
/-- V-SC5 and V-SC6. -/
theorem test_readDiag :
    resp (exec .readDiag tc) = some [.int 0] ∧ resp (exec .readDiag { tc with lastCtx := 255 }) = some [.int 255] := by decide
/-- V-SC3 and V-SM8: a tick that is not armed, and a trigger that names no effect. -/
theorem test_tick_quiet :
    raised (exec (.tick 0) tc) = some (.timerNotArmed, some (.int 0)) ∧
    ticked (exec (.tick 1) (idleWith 3)) = some [0, 0, 0, 0, 3, 1, 2048] := by decide +kernel
/-- V-SM2: rows 2 and 8. -/
theorem test_tick_tone :
    ticked (exec (.tick 0) (toneAt .parabolaA 108447924 16384 1)) = some [2, 217109905, 32768, 2, 0, 0, 2345] ∧
    ticked (exec (.tick 0) (toneAt .parabolaA 763623164 32768 7)) = some [0, 873564986, 0, 0, 0, 0, 4006] := by decide +kernel

/-! ### Listings (30_encoding.md R102, R103; 95_test_vectors.md, programs P2 and P3) -/

theorem test_listing_tick :
    assembleText "timer: TICK 1           ; 0x03000100" =
      some [{ agent := .timer, word := 0x03000100, ports := noPorts }] := by decide
theorem test_listing_wtrig :
    assembleText "host:  WTRIG 0x02" = some [{ agent := .host, word := 0x04000002, ports := noPorts }] := by decide
theorem test_listing_ports :
    assembleText "host: MUL15 A=98304, B=-0x4000" =
      some [{ agent := .host, word := 0x10000000, ports := { a := 98304, b := toReg (-16384), f := mkRat 0 1 } }] := by decide
theorem test_listing_rationals :
    (assembleText "host: FROM_FLOAT15 F=1/2").map (fun l => l.map (fun e => e.ports.f)) = some [mkRat 1 2] ∧
    (assembleText "host: FROM_FLOAT28 F=-0.25").map (fun l => l.map (fun e => e.ports.f)) = some [mkRat (-1) 4] := by decide +kernel
/-- The model's choices of log entry 18: a bare hex integer is a rational, and q takes no minus sign. -/
theorem test_listing_rational_choices :
    (assembleText "host: FROM_FLOAT15 F=0x10").map (fun l => l.map (fun e => e.ports.f)) = some [mkRat 16 1] ∧
    assembleText ("host: FROM_FLOAT15 F=1/" ++ "-2") = none := by decide +kernel
theorem test_listing_pseudo :
    assembleText "host:  BOOT" = some [{ agent := .host, word := 0x01000000, ports := noPorts },
      { agent := .host, word := 0x02000000, ports := noPorts }] ∧
    assembleText "timer: TICKS 2, 0" = some [{ agent := .timer, word := 0x03000000, ports := noPorts },
      { agent := .timer, word := 0x03000000, ports := noPorts }] := by decide
theorem test_listing_refuses :
    assembleText "timer: TICK 256" = none ∧ assembleText "timer: TICKS 0, 0" = none ∧ assembleText "host: NOP" = none := by decide

/-! ### Witnesses: for each statement with hypotheses, a state and operands that meet all of them

Each theorem is named after its statement. -/

/-- The timer's TICK 255. -/
def tick255 : Issue := { agent := .timer, word := 0x0300FF00, ports := noPorts }

/-- A word from an agent. -/
def issue (a : Agent) (w : Word) : Issue := { agent := a, word := w, ports := noPorts }

theorem wit_DecodeEncodeRoundTrip : (Instr.tick 255).WellFormed ∧ (Instr.writeTrigger 255).WellFormed ∧ Instr.mul15.WellFormed := by
  decide

theorem wit_EncodeDecodeRoundTrip : decode 0x0300FF00 = .ok (.tick 255) ∧ decode 0x040000FF = .ok (.writeTrigger 255) := by decide

/-- One word for each of the four ways a word is illegal. -/
theorem wit_IllegalWordsAreTheReservedOnes :
    (0x26000000 : Word).extractLsb' 24 8 ∉ ([0x01, 0x02, 0x03, 0x04, 0x05, 0x10, 0x11, 0x12, 0x13, 0x14, 0x15,
        0x20, 0x21, 0x22, 0x23, 0x24, 0x25] : List Byte) ∧
    (0x03010000 : Word).extractLsb' 16 8 ≠ 0 ∧
    ((0x04000102 : Word).extractLsb' 24 8 ≠ 0x03 ∧ (0x04000102 : Word).extractLsb' 8 8 ≠ 0) ∧
    ((0x01000001 : Word).extractLsb' 24 8 ≠ 0x04 ∧ (0x01000001 : Word).extractLsb' 0 8 ≠ 0) := by decide

theorem wit_StepRunsDecodedOperation :
    let s := { idleWith 2 with pending := [tick255, issue .host 0x05000000] }
    configOk s.cfg = true ∧ s.Unfaulted ∧ s.pending = tick255 :: [issue .host 0x05000000] ∧
      decode tick255.word = .ok (.tick 255) ∧ tick255.agent = (Instr.tick 255).agent := by decide

/-- With `wit_IllegalWordsAreTheReservedOnes` for the four ways. -/
theorem wit_IllegalWordRaises :
    let s := { tc with pending := [issue .host 0x01000001] }
    configOk s.cfg = true ∧ s.Unfaulted ∧ s.pending = issue .host 0x01000001 :: [] ∧
      ((0x01000001 : Word).extractLsb' 24 8 ≠ 0x04 ∧ (0x01000001 : Word).extractLsb' 0 8 ≠ 0) := by decide

/-- V-SC11: the host issues a TICK. -/
def hostTick : State := { idleWith 0 with pending := [issue .host 0x03000000] }

/-- V-SC14: the timer issues START_TIMER. -/
def timerStart : State := { tc with pending := [issue .timer 0x02000000] }

theorem wit_WrongAgentRaises :
    configOk hostTick.cfg = true ∧ hostTick.Unfaulted ∧ hostTick.pending = issue .host 0x03000000 :: [] ∧
    decode 0x03000000 = .ok (.tick 0) ∧
    Agent.host ≠ (if (0x03000000 : Word).extractLsb' 24 8 = 0x03 then Agent.timer else .host) ∧
    configOk timerStart.cfg = true ∧ timerStart.Unfaulted ∧ timerStart.pending = issue .timer 0x02000000 :: [] ∧
    decode 0x02000000 = .ok .startTimer ∧
    Agent.timer ≠ (if (0x02000000 : Word).extractLsb' 24 8 = 0x03 then Agent.timer else .host) := by decide

theorem wit_FaultedStateHasNoStep :
    (tc.faulting .fxDivZero (.int 5)).fault ≠ .none ∧ configOk (tc.faulting .fxDivZero (.int 5)).cfg = true := by decide

theorem wit_ConfigurationChecks :
    configOk Cfg.reference = true ∧ configOk (State.resetWith { Cfg.reference with attackTime := 250 }).cfg = false := by decide

theorem wit_FaultIsPrecise :
    (withAB tc 5 0).Unfaulted ∧
      ∃ t, exec .div15 (withAB tc 5 0) = .next t ∧ t.fault ≠ .none := ⟨by decide, _, rfl, by decide⟩

theorem wit_WhichOperationRaisesWhat :
    configOk (withAB tc 5 0).cfg = true ∧ (withAB tc 5 0).Unfaulted ∧
      (∃ t, exec .div15 (withAB tc 5 0) = .next t ∧ t.fault ≠ .none) ∧
    configOk (withAB tcWrap 5 0).cfg = true ∧ (withAB tcWrap 5 0).cfg.overflowPolicy = .wrap ∧ (withAB tcWrap 5 0).Unfaulted ∧
      ∃ t, exec .div15 (withAB tcWrap 5 0) = .next t ∧ t.fault ≠ .none :=
  ⟨by decide, by decide, ⟨_, rfl, by decide⟩, by decide, by decide, by decide, _, rfl, by decide⟩

/-- A product in range at its upper end, and one out of range under each policy (V-FX8, V-FX9). -/
theorem wit_MultiplyResponds :
    InS32 ⌊((-2147483648 * 32768 : Int) : Rat) / 2 ^ 15⌋ ∧ ¬ InS32 ⌊((-2147483648 * -32768 : Int) : Rat) / 2 ^ 15⌋ ∧
    InS32 ⌊((268435456 * 134217728 : Int) : Rat) / 2 ^ 28⌋ ∧ ¬ InS32 ⌊((1073741824 * 1073741824 : Int) : Rat) / 2 ^ 28⌋ ∧
    tc.cfg.overflowPolicy = .fault ∧ tcWrap.cfg.overflowPolicy = .wrap ∧
    (withAB tc (-2147483648) 32768).op.ports.a.toInt = -2147483648 ∧ (withAB tc (-2147483648) 32768).op.ports.b.toInt = 32768 := by
  unfold InS32; decide +kernel

/-- A zero divisor, a quotient in range, and one out of range (V-FX12, V-FX13, V-FX14). -/
theorem wit_DivideResponds :
    (withAB tc 5 0).op.ports.b.toInt = 0 ∧ (withAB tc (-32768) 98304).op.ports.b.toInt ≠ 0 ∧
    InS32 (truncTowardZero (((-32768 : Int) : Rat) * 2 ^ 15 / ((98304 : Int) : Rat))) ∧
    ¬ InS32 (truncTowardZero (((-2147483648 : Int) : Rat) * 2 ^ 15 / ((-32768 : Int) : Rat))) ∧
    InS32 (truncTowardZero (((268435456 : Int) : Rat) * 2 ^ 28 / ((805306368 : Int) : Rat))) ∧
    ¬ InS32 (truncTowardZero (((-2147483648 : Int) : Rat) * 2 ^ 28 / ((-268435456 : Int) : Rat))) := by
  unfold InS32; decide +kernel

/-- V-FX18 and V-FX27: the ends of both ranges. -/
theorem wit_FromIntResponds :
    InS32 ((withAB tc 65535 0).op.ports.a.toInt * 2 ^ 15) ∧ ¬ InS32 ((withAB tc 65536 0).op.ports.a.toInt * 2 ^ 15) ∧
    InS32 ((withAB tc (-8) 0).op.ports.a.toInt * 2 ^ 28) ∧ ¬ InS32 ((withAB tc (-9) 0).op.ports.a.toInt * 2 ^ 28) := by
  unfold InS32; decide +kernel

/-- V-FX23 and V-FX29: the ends of both ranges. -/
theorem wit_FromFloatResponds :
    InS32 (truncTowardZero ((withF tc (mkRat (-65536) 1)).op.ports.f * 2 ^ 15)) ∧
    ¬ InS32 (truncTowardZero ((withF tc (mkRat 65536 1)).op.ports.f * 2 ^ 15)) ∧
    InS32 (truncTowardZero ((withF tc (mkRat (-8) 1)).op.ports.f * 2 ^ 28)) ∧
    ¬ InS32 (truncTowardZero ((withF tc (mkRat 8 1)).op.ports.f * 2 ^ 28)) := by
  unfold InS32; decide +kernel

theorem wit_ToFloatResponds :
    tc.cfg.toFloatRounding = .exact ∧
    (State.resetWith { Cfg.test with toFloatRounding := .binary32Rne }).cfg.toFloatRounding = .binary32Rne := by decide

/-- Both ends of s32. -/
theorem wit_Binary32RoundingIsNearestEven : InS32 (2 ^ 31 - 1) ∧ InS32 (-2 ^ 31) := by unfold InS32; decide

theorem wit_MultiplyLaws : InS32 (2 ^ 31 - 1) ∧ InS32 (-2 ^ 31) := by unfold InS32; decide

theorem wit_DivideSignSymmetry :
    (10922 : Int) ≠ -2 ^ 31 ∧ div15 .fault 32768 98304 = .ok 10922 ∧
    (89478485 : Int) ≠ -2 ^ 31 ∧ div28 .fault 268435456 805306368 = .ok 89478485 := by decide

/-- V-FX31 to V-FX33. -/
theorem wit_FixedPointRoundTrip :
    fromFloat15 (mkRat (-1) 3) = .ok (-10922) ∧ fromFloat28 (mkRat 1 10) = .ok 26843545 ∧
    fromInt15 .fault 65535 = .ok 2147450880 ∧ fromInt28 .fault (-8) = .ok (-2147483648) := by decide

/-- The reference function's values, as a configuration's. -/
theorem exact_values {c : Cfg} (h : c.sineTable = .exactSine) : SineValues c (peakSine c.peakAmplitude) := by
  unfold SineValues; rw [h]; exact fun i hi => peakSine_truncates _ hi

/-- TC with the deployed table. -/
def deployed : State := State.resetWith { Cfg.test with sineTable := .deployed deployedTable }

/-- The deployed table's values. -/
def deployedValue (i : Nat) : Int := (deployedTable.toList.getD i 0).toInt

theorem deployed_values : SineValues deployed.cfg deployedValue := by
  intro i h; simp [deployedValue, h]

theorem peak2047_fits : ∀ i, i < 256 → InS32 (peakSine tc.cfg.peakAmplitude i) := by unfold InS32; decide +kernel
theorem deployed_fits : ∀ i, i < 256 → InS32 (deployedValue i) := by unfold InS32; decide +kernel

/-- Peaks that R15 refuses: the first value out of range is at index 64, where the sine is 1, and at index 22, just above 1/2. -/
def peak65536 : State := State.resetWith { Cfg.test with peakAmplitude := mkRat 65536 1 }
def peak131072 : State := State.resetWith { Cfg.test with peakAmplitude := mkRat 131072 1 }

theorem peak65536_first : (∀ i, i < 64 → InS32 (peakSine peak65536.cfg.peakAmplitude i)) ∧
    ¬ InS32 (peakSine peak65536.cfg.peakAmplitude 64) := by unfold InS32; decide +kernel
theorem peak131072_first : (∀ i, i < 22 → InS32 (peakSine peak131072.cfg.peakAmplitude i)) ∧
    ¬ InS32 (peakSine peak131072.cfg.peakAmplitude 22) := by unfold InS32; decide +kernel

theorem wit_SineTableFunction :
    (SineValues tc.cfg (peakSine tc.cfg.peakAmplitude) ∧ 255 < 256 ∧ InS32 (peakSine tc.cfg.peakAmplitude 255)) ∧
    (SineValues deployed.cfg deployedValue ∧ InS32 (deployedValue 255)) ∧
    (SineValues peak65536.cfg (peakSine peak65536.cfg.peakAmplitude) ∧ ¬ InS32 (peakSine peak65536.cfg.peakAmplitude 64)) :=
  ⟨⟨exact_values rfl, by decide, peak2047_fits 255 (by decide)⟩, ⟨deployed_values, deployed_fits 255 (by decide)⟩,
   exact_values rfl, peak65536_first.2⟩

theorem wit_BuildTableBuilds :
    (tc.lifecycle = .uninit ∧ SineValues tc.cfg (peakSine tc.cfg.peakAmplitude) ∧
      (∀ i, i < 256 → InS32 (peakSine tc.cfg.peakAmplitude i)) ∧ Memory.wf tc.table = true) ∧
    (deployed.lifecycle = .uninit ∧ SineValues deployed.cfg deployedValue ∧ (∀ i, i < 256 → InS32 (deployedValue i)) ∧
      Memory.wf deployed.table = true) :=
  ⟨⟨rfl, exact_values rfl, peak2047_fits, by decide⟩, rfl, deployed_values, deployed_fits, by decide⟩

theorem wit_BuildTableRebuildRaises : (tc.setLifecycle .ready).lifecycle = .ready ∧ (idleWith 0).lifecycle = .running := by decide

theorem wit_BuildTableFloatRange :
    (peak65536.lifecycle = .uninit ∧ SineValues peak65536.cfg (peakSine peak65536.cfg.peakAmplitude) ∧ 64 < 256 ∧
      (∀ i, i < 64 → InS32 (peakSine peak65536.cfg.peakAmplitude i)) ∧ ¬ InS32 (peakSine peak65536.cfg.peakAmplitude 64)) ∧
    (peak131072.lifecycle = .uninit ∧ SineValues peak131072.cfg (peakSine peak131072.cfg.peakAmplitude) ∧ 22 < 256 ∧
      (∀ i, i < 22 → InS32 (peakSine peak131072.cfg.peakAmplitude i)) ∧ ¬ InS32 (peakSine peak131072.cfg.peakAmplitude 22)) :=
  ⟨⟨rfl, exact_values rfl, by decide, peak65536_first⟩, rfl, exact_values rfl, by decide, peak131072_first⟩

theorem wit_CheckedBuildNeverFaults :
    (configOk tc.cfg = true ∧ SineValues tc.cfg (peakSine tc.cfg.peakAmplitude) ∧ 255 < 256 ∧ tc.lifecycle = .uninit) ∧
    (configOk deployed.cfg = true ∧ SineValues deployed.cfg deployedValue ∧ deployed.lifecycle = .uninit) :=
  ⟨⟨by decide, exact_values rfl, by decide, rfl⟩, by decide, deployed_values, rfl⟩

theorem wit_TableWrittenOnlyByFirstBuild :
    (∃ t, exec .startTimer (tc.setLifecycle .ready) = .next t) ∧ Instr.startTimer ≠ .buildTable ∧
    (∃ t, exec .buildTable (idleWith 0) = .next t) ∧ (idleWith 0).lifecycle ≠ .uninit :=
  ⟨⟨_, rfl⟩, by decide, ⟨_, rfl⟩, by decide⟩

/-- Each of the three ways a write is no collision (V-SM10 to V-SM12). -/
theorem wit_WriteTriggerStores :
    (255 < 256 ∧ (idleWith 0).trig = 0) ∧ 0 < 256 ∧ (2 < 256 ∧ (idleWith 2).trig = BitVec.ofNat 8 2) := by decide

/-- V-SM10. -/
theorem wit_WriteTriggerCollision : 5 < 256 ∧ (idleWith 1).trig ≠ 0 ∧ 5 ≠ 0 ∧ (idleWith 1).trig ≠ BitVec.ofNat 8 5 := by decide

theorem wit_StartTimerArms :
    (tc.setLifecycle .ready).lifecycle = .ready ∧ tc.lifecycle = .uninit ∧ (idleWith 0).lifecycle = .running := by decide

theorem wit_TickNotArmedRaises : tc.lifecycle = .uninit ∧ (tc.setLifecycle .ready).lifecycle = .ready := by decide

/-- A trigger that names an effect, and two that name none. -/
theorem wit_IdleTick :
    255 < 256 ∧ (idleWith 7).lifecycle = .running ∧ (idleWith 7).voice0.state = .idle ∧
    (idleWith 7).trig = (SoundState.playing (.tone .parabolaB)).tag ∧
    (idleWith 3).trig ∉ ([1, 2, 4, 5, 6, 7] : List Byte) ∧ (idleWith 8).trig ∉ ([1, 2, 4, 5, 6, 7] : List Byte) := by decide

/-- The last silent tick and the one before it (V-SM3). -/
theorem wit_SilentTick :
    configOk (silentAt 5).cfg = true ∧ 255 < 256 ∧ (silentAt 5).lifecycle = .running ∧
    (silentAt 5).voice0.state = .playing .silent ∧ (silentAt 5).voice0.elapsed.toNat + 1 = (silentAt 5).cfg.duration .silent ∧
    configOk (silentAt 4).cfg = true ∧ (silentAt 4).lifecycle = .running ∧
    (silentAt 4).voice0.state = .playing .silent ∧ (silentAt 4).voice0.elapsed.toNat + 1 ≠ (silentAt 4).cfg.duration .silent := by
  decide

/-- The premises of ToneTick. -/
def ToneTickPremises (s : State) (ctx : Nat) (t : Tone) (raw : Word) (x : Nat) (f : Rat) (phase : Word) (amp p : Int) : Prop :=
  configOk s.cfg = true ∧ ctx < 256 ∧ s.lifecycle = .running ∧ s.voice0.state = .playing (.tone t) ∧
  x = s.voice0.elapsed.toNat ∧ f = (s.cfg.law t).a * x ^ 2 + (s.cfg.law t).b * x + (s.cfg.law t).c ∧ 0 ≤ f ∧ f < 20000 ∧
  phase = BitVec.ofNat 32 (s.voice0.phase.toNat + (phaseInc s.cfg f).toNat) ∧
  Memory.read s.table (phase.toNat / 2 ^ 24) = some raw ∧
  p = ⌊((s.voice0.amp.toInt * raw.toInt : Int) : Rat) / 2 ^ 15⌋ ∧ (-2 ^ 31 ≤ p ∧ p < 2 ^ 31) ∧
  amp = (if x < s.cfg.attackTime then s.voice0.amp.toInt + ⌊(s.cfg.maxAmplitude : Rat) / s.cfg.attackTime⌋
    else if (x : Int) > s.cfg.duration (.tone t) - s.cfg.decayTime
      then s.voice0.amp.toInt - ⌊(s.cfg.maxAmplitude : Rat) / s.cfg.decayTime⌋
    else s.voice0.amp.toInt) ∧ (-2 ^ 31 ≤ amp ∧ amp < 2 ^ 31)

/-- V-SM2 row 1 (attack). -/
theorem wit_ToneTick_attack :
    ToneTickPremises (toneAt .parabolaA 0 0 0) 255 .parabolaA (toReg 9842107) 0 (mkRat 1010 1) 108447924 16384 0 := by
  unfold ToneTickPremises; decide +kernel
/-- V-SM1 row 5 (hold, at the boundary of decay). -/
theorem wit_ToneTick_hold :
    ToneTickPremises (toneAt .descend 858671334 32768 4) 0 .descend (toReg 67055893) 4 (mkRat 1998 1) 1073204950 32768
      67055893 := by
  unfold ToneTickPremises; decide +kernel
/-- V-SM1 row 6 (decay, and the last tick). -/
theorem wit_ToneTick_decay :
    ToneTickPremises (toneAt .descend 1073204950 32768 5) 0 .descend (toReg 64187821) 5 (mkRat 3995 2) 1287684879 16384
      64187821 := by
  unfold ToneTickPremises; decide +kernel

/-- A law that gives exactly 20000 Hz at once (V-DDS9). -/
def tooHigh : State :=
  running { Cfg.test with laws := { Cfg.test.laws with linearC := { a := mkRat 0 1, b := mkRat 1 1, c := mkRat 20000 1 } } }
    { state := .playing (.tone .linearC), phase := 0, amp := 0, elapsed := 0 }

/-- Both sides of the range, at their boundaries: 20000 Hz, and the tag-2 law just below 0 (V-DDS5). -/
theorem wit_ToneTickFrequencyRange :
    tooHigh.lifecycle = .running ∧ tooHigh.voice0.state = .playing (.tone .linearC) ∧ 0 = tooHigh.voice0.elapsed.toNat ∧
    (20000 : Rat) = (tooHigh.cfg.law .linearC).a * (0 : Nat) ^ 2 + (tooHigh.cfg.law .linearC).b * (0 : Nat) +
      (tooHigh.cfg.law .linearC).c ∧
    2417 = (toneAt .parabolaA 0 0 2417).voice0.elapsed.toNat ∧
    (Cfg.test.law .parabolaA).a * (2417 : Nat) ^ 2 + (Cfg.test.law .parabolaA).b * (2417 : Nat) + (Cfg.test.law .parabolaA).c < 0 := by
  decide +kernel

/-! #### States that meet the invariant -/

theorem builtTable_canonical : Memory.wf builtTable = true := by decide +kernel

/-- Reading a table that lists every index from `lo` on. -/
theorem read_range (g : Nat → Word) (n : Nat) : ∀ lo i, lo ≤ i → i < lo + n →
    Memory.read ((List.range' lo n).map fun k => (k, g k)) i = some (g i) := by
  induction n with
  | zero => intro lo i h1 h2; omega
  | succ k ih =>
    intro lo i h1 h2
    simp only [List.range'_succ, List.map_cons, Memory.read]
    split
    · next h => rw [h]
    · exact ih (lo + 1) i (by omega) (by omega)

/-- The table of the reference sine values is the one these tests use. -/
theorem builtTable_built : ∀ i, i < 256 → ∃ v, sineTableFn Cfg.test i = .ok v ∧ Memory.read builtTable i = some (toReg v) := by
  have key : ∀ i, i < 256 → sineTableFn Cfg.test i = .ok (refTable.getD i 0) := by decide +kernel
  intro i hi
  refine ⟨_, key i hi, ?_⟩
  unfold builtTable
  rw [List.range_eq_range']
  exact read_range _ 256 0 i (by omega) (by omega)

/-- A state of these tests meets the invariant if its voice does. -/
theorem running_inv {c : Cfg} {v : Voice} (hp : c.peakAmplitude = Cfg.test.peakAmplitude)
    (hs : c.sineTable = Cfg.test.sineTable) (h1 : v.state = .idle → v.elapsed = 0 ∧ v.amp = 0)
    (h2 : v.state = .playing .silent → v.amp = 0) (h3 : ∀ e, v.state = .playing e → v.elapsed.toNat < c.duration e)
    (h4 : ∀ t, v.state = .playing (.tone t) → v.amp.toInt = plannedAmp c (c.duration (.tone t)) v.elapsed.toNat) (t : Byte) :
    (State.setTrig t (running c v)).Inv := by
  refine ⟨builtTable_canonical, (fun h => by cases h), ?_, rfl, ⟨fun _ => rfl, fun _ => rfl⟩, fun h => absurd rfl h, h1, h2, h3, h4⟩
  intro _ i hi
  obtain ⟨w, hw, hr⟩ := builtTable_built i hi
  exact ⟨w, (sineTableFn_congr hp hs i).trans hw, hr⟩

theorem idleWith_inv (t : Byte) : (idleWith t).Inv :=
  running_inv rfl rfl (fun _ => ⟨rfl, rfl⟩) (fun h => by cases h) (fun e h => by cases h) (fun e h => by cases h) t

theorem toneAt_inv {t : Tone} {phase amp : Word} {x : Nat} (hx : (BitVec.ofNat 32 x).toNat < Cfg.test.duration (.tone t))
    (ha : amp.toInt = plannedAmp Cfg.test (Cfg.test.duration (.tone t)) (BitVec.ofNat 32 x).toNat) : (toneAt t phase amp x).Inv := by
  refine running_inv (v := { state := .playing (.tone t), phase := phase, amp := amp, elapsed := BitVec.ofNat 32 x })
    rfl rfl (fun h => by cases h) (fun h => by cases h) (fun e h => by cases h; exact hx) (fun e h => by cases h; exact ha) 0

/-- The last tick of effect 1 (V-SM1 row 6, before it). -/
theorem toneAt_last_inv : (toneAt .descend 1073204950 32768 5).Inv := toneAt_inv (by decide) (by decide)

theorem wit_CheckedTickCompletes :
    let s := toneAt .descend 1073204950 32768 5
    configOk s.cfg = true ∧ s.Inv ∧ s.Unfaulted ∧ s.lifecycle = .running ∧ 255 < 256 :=
  ⟨by decide, toneAt_last_inv, by decide, by decide, by decide⟩

/-- V-DDS8: both ends of the range. -/
theorem wit_ReferencePhaseIncrement :
    Cfg.test.phaseIncFn = .exactFloor ∧ (0 : Rat) ≤ 0 ∧ (0 : Rat) < 20000 ∧ (0 : Rat) ≤ 19999 ∧ (19999 : Rat) < 20000 := by
  decide +kernel

/-- V-DDS10, and k at its largest. -/
theorem wit_PhaseModularity : 5 + 1 ≤ (100 : Word).toNat ∧ 99 + 1 ≤ (100 : Word).toNat := by decide

theorem wit_AmplitudeRange :
    configOk (toneAt .descend 1073204950 32768 5).cfg = true ∧ (toneAt .descend 1073204950 32768 5).Inv :=
  ⟨by decide, toneAt_last_inv⟩

/-- TC with a longer decay, so that an effect has decay steps. -/
def slowDecay : Cfg :=
  { Cfg.test with decayTime := 4, durations := { descend := 8, parabolaA := 8, silent := 8, linearB := 8, linearC := 8, parabolaB := 8 } }

/-- Effect 1 under the longer decay, two decay steps done. -/
def decaying : State := running slowDecay { state := .playing (.tone .descend), phase := 0, amp := 16384, elapsed := 7 }

theorem decaying_inv : decaying.Inv :=
  running_inv (c := slowDecay) (v := { state := .playing (.tone .descend), phase := 0, amp := 16384, elapsed := 7 })
    rfl rfl (fun h => by cases h) (fun h => by cases h) (fun e h => by cases h; decide) (fun e h => by cases h; decide) 0

/-- The three parts: one attack step; the boundary of attack and hold; the boundary of hold and decay; two decay steps. -/
theorem wit_EnvelopeShape :
    (configOk Cfg.test = true ∧ (toneAt .descend 0 16384 1).Inv ∧ 1 ≤ Cfg.test.attackTime) ∧
    ((toneAt .descend 0 32768 2).Inv ∧ Cfg.test.attackTime ≤ 2 ∧ 2 ≤ Cfg.test.duration (.tone .descend) - Cfg.test.decayTime + 1) ∧
    ((toneAt .descend 0 32768 5).Inv ∧ Cfg.test.duration (.tone .descend) - Cfg.test.decayTime + 1 ≤ 5) ∧
    (configOk decaying.cfg = true ∧ decaying.Inv ∧ decaying.voice0.state = .playing (.tone .descend) ∧
      decaying.cfg.duration (.tone .descend) - decaying.cfg.decayTime + 1 ≤ 7 ∧ 7 = decaying.voice0.elapsed.toNat) :=
  ⟨⟨by decide, toneAt_inv (by decide) (by decide), by decide⟩, ⟨toneAt_inv (by decide) (by decide), by decide, by decide⟩,
   ⟨toneAt_inv (by decide) (by decide), by decide⟩, by decide, decaying_inv, by decide, by decide, by decide⟩

theorem wit_TagTwoLawRange : (SoundState.playing (.tone .parabolaA)).tag = 2 := by decide

theorem wit_ReferenceOutputRange : Cfg.test.dcOffset = 2048 ∧ (0 : Int) ≤ 32768 ∧ (32768 : Int) ≤ 32768 ∧ 255 < 256 := by decide

theorem wit_NoRetriggering :
    (silentAt 5).voice0.state ≠ .idle ∧ ∃ t, exec (.tick 0) (silentAt 5) = .next t := ⟨by decide, _, rfl⟩

theorem wit_ContextChangesOnlyDiagnostics : ∃ t, exec (.tick 0) (silentAt 5) = .next t := ⟨_, rfl⟩

theorem wit_TriggerLatency :
    (idleWith 0).lifecycle = .running ∧ (idleWith 0).voice0.state = .idle ∧ (idleWith 0).trig = 0 := by decide

/-- An operation of each kind that the clauses of AccessRights speak of, answering a next state. -/
theorem wit_AccessRights :
    (∃ t, exec .readDiag (idleWith 2) = .next t) ∧ (∃ t, exec (.tick 0) (idleWith 2) = .next t) ∧
    (∃ t, exec (.writeTrigger 5) (idleWith 2) = .next t) ∧ (∃ t, exec .startTimer (tc.setLifecycle .ready) = .next t) ∧
    ((∀ c, Instr.readDiag ≠ .tick c) ∧ (∀ v, Instr.readDiag ≠ .writeTrigger v)) :=
  ⟨⟨_, rfl⟩, ⟨_, rfl⟩, ⟨_, rfl⟩, ⟨_, rfl⟩, by simp, by simp⟩

/-- An operation other than READ_DIAG with another LAST_CTX, and READ_DIAG with its own. -/
theorem wit_DiagnosticsAndVoiceOneNotRead :
    ((Instr.tick 0 = .readDiag → (7 : Word) = (idleWith 2).lastCtx) ∧ ∃ t, exec (.tick 0) (idleWith 2) = .next t) ∧
    ((Instr.readDiag = .readDiag → (0 : Word) = (idleWith 2).lastCtx) ∧ ∃ t, exec .readDiag (idleWith 2) = .next t) :=
  ⟨⟨by decide, _, rfl⟩, fun _ => rfl, _, rfl⟩

theorem wit_RespondingOperationsWriteNoState :
    Instr.readDiag ∈ [Instr.mul15, .div15, .fromInt15, .toInt15, .fromFloat15, .toFloat15,
      .mul28, .div28, .fromInt28, .toInt28, .fromFloat28, .toFloat28, .readDiag] := by decide

theorem wit_OneSamplePerTick :
    (idleWith 2).cfg.quietTickWrites = true ∧ (idleWith 2).lifecycle = .running ∧ (idleWith 2).Unfaulted ∧
      ∃ t, exec (.tick 0) (idleWith 2) = .next t ∧ t.Unfaulted := ⟨by decide, by decide, by decide, _, rfl, by decide⟩

theorem wit_LifecycleMovesForward : ∃ t, exec .startTimer (tc.setLifecycle .ready) = .next t ∧ t.lifecycle = .running :=
  ⟨_, rfl, by decide⟩

theorem wit_StepKeepsInvariant :
    let s := { idleWith 2 with pending := [issue .host 0x05000000] }
    s.Inv ∧ ∃ t, step s = .next t := by
  refine ⟨?_, ?_⟩
  · exact ⟨(idleWith_inv 2).table_canonical, (idleWith_inv 2).table_unbuilt, (idleWith_inv 2).table_built,
      (idleWith_inv 2).voice1_inert, (idleWith_inv 2).fault_recorded, (idleWith_inv 2).untouched, (idleWith_inv 2).idle_zero,
      (idleWith_inv 2).silent_zero, (idleWith_inv 2).elapsed_bound, (idleWith_inv 2).tone_amp⟩
  · exact ⟨_, rfl⟩

/-- A tick for each context id, and a trigger write, as the runs of the timeline have them. -/
theorem isTick_zero : IsTick (tickIssue 0 noPorts) := ⟨0, noPorts, by decide, rfl⟩
theorem isTriggerWrite_five : IsTriggerWrite (triggerIssue 5 noPorts) := ⟨5, noPorts, by decide, rfl⟩

/-- V-FX5's product, which fits. -/
def mulIssue : Issue := { agent := .host, word := 0x10000000, ports := { a := toReg (-3), b := toReg 16384, f := mkRat 0 1 } }

theorem mulIssue_completes : HostCompletes Cfg.test mulIssue := by
  refine hostCompletes_of_next (i := .mul15) rfl (by decide) rfl fun s hc ho => ⟨.int (-2), ?_⟩
  show s.respondWith (intResponse (mul15 s.cfg.overflowPolicy s.op.ports.a.toInt s.op.ports.b.toInt)) = _
  rw [hc, ho]
  rfl

/-- Seven ticks of effect 2 (V-SM2) with a trigger write (V-SM13), READ_DIAG and a fixed-point operation among them. -/
def sevenTicks : List Issue :=
  triggerIssue 5 noPorts :: issue .host (encode .readDiag) :: mulIssue :: List.replicate 7 (tickIssue 0 noPorts)

theorem sevenTicks_elements : ∀ x ∈ sevenTicks, IsTick x ∨ HostCompletes (idleWith 2).cfg x := by
  intro x hx
  rcases List.mem_cons.mp hx with rfl | hx
  · exact .inr (hostCompletes_trigger _ isTriggerWrite_five)
  rcases List.mem_cons.mp hx with rfl | hx
  · exact .inr (hostCompletes_readDiag _ _)
  rcases List.mem_cons.mp hx with rfl | hx
  · exact .inr mulIssue_completes
  · rw [List.eq_of_mem_replicate hx]; exact .inl isTick_zero

theorem law2_inRange : LawInRange Cfg.test (.tone .parabolaA) := by
  have key : ∀ x, x < 8 → audible (evalLaw Config.law2 x) = true := by decide +kernel
  exact key

theorem wit_EffectTimeline :
    configOk (idleWith 2).cfg = true ∧ (idleWith 2).Inv ∧ (idleWith 2).Unfaulted ∧ (idleWith 2).lifecycle = .running ∧
    (idleWith 2).voice0.state = .idle ∧ (idleWith 2).trig = (SoundState.playing (.tone .parabolaA)).tag ∧
    LawInRange (idleWith 2).cfg (.tone .parabolaA) ∧ IsTick (tickIssue 0 noPorts) ∧
    (∀ x ∈ sevenTicks, IsTick x ∨ HostCompletes (idleWith 2).cfg x) ∧ tickCount sevenTicks = 7 ∧ 7 < (idleWith 2).cfg.duration (.tone .parabolaA) :=
  ⟨by decide, idleWith_inv 2, by decide, by decide, by decide, by decide, law2_inRange, isTick_zero, sevenTicks_elements,
   by decide, by decide⟩

theorem wit_EffectReturnsAtDuration :
    configOk (idleWith 2).cfg = true ∧ (idleWith 2).Inv ∧ (idleWith 2).Unfaulted ∧ (idleWith 2).lifecycle = .running ∧
    (idleWith 2).voice0.state = .idle ∧ (idleWith 2).trig = (SoundState.playing (.tone .parabolaA)).tag ∧
    LawInRange (idleWith 2).cfg (.tone .parabolaA) ∧ IsTick (tickIssue 0 noPorts) ∧
    (∀ x ∈ sevenTicks, IsTick x ∨ HostCompletes (idleWith 2).cfg x) ∧ tickCount sevenTicks + 1 = (idleWith 2).cfg.duration (.tone .parabolaA) :=
  ⟨by decide, idleWith_inv 2, by decide, by decide, by decide, by decide, law2_inRange, isTick_zero, sevenTicks_elements, by decide⟩

end Sys2Proof.Tests
end

section
/-! Proofs of the statements of 00_scope.md: how a step begins (R6, R21), what a fault leaves alone (R20), and the checks a
configuration must pass (R8 to R15). -/

namespace Sys2Proof.Machine

/-! ### The step (R6, R21) -/

/-- A configuration that fails a check has no runs (R21), whatever else the state holds. -/
theorem step_refused_of_not_configOk {s : State} (hc : configOk s.cfg = false) : step s = .refused .configRefused := by
  have hfetch : fetch s = .stop (.refused .configRefused) := if_pos hc
  unfold step
  rw [hfetch]

/-- Settles O5: after the checks that precede it, a step is the decoded operation's own rule. -/
theorem stepRunsDecodedOperation : Obligations.StepRunsDecodedOperation :=
  fun _ _ _ _ hc hf hp hd ha => step_legal hc hf hp hd ha

/-! ### Faults are precise (R20, R262) -/

/-- An operation writes the fault register by raising, and in no other way: of the six ways in which it answers a next state, the
five that raise nothing keep FAULT. -/
theorem exec_raises_or_keeps_fault {i : Instr} {s t : State} (h : exec i s = .next t) :
    (∃ r, t = s.raise r) ∨ t.fault = s.fault := by
  rcases exec_next h with ⟨r, -, ht⟩ | ⟨-, v, rfl⟩ | ⟨-, -, m, -, rfl⟩ | ⟨-, -, rfl⟩ | ⟨v, -, rfl⟩ | ⟨c, u, -, -, hu, rfl⟩
  · exact .inl ⟨r, ht⟩
  · exact .inr (State.respond_fault v s)
  · exact .inr rfl
  · exact .inr (State.setLifecycle_fault .running s)
  · exact .inr (State.writeTrig_fault _ s)
  · obtain ⟨-, -, -, -, hfault, -⟩ := smTick_frame hu
    exact .inr hfault

/-- Settles O10: a fault that was not there has been raised, and raising writes the two fault registers alone. -/
theorem faultIsPrecise : Obligations.FaultIsPrecise := by
  intro i s t hs h ht
  rcases exec_raises_or_keeps_fault h with ⟨r, rfl⟩ | hkeep
  · exact ⟨r.info, rfl⟩
  · exact absurd (hkeep.trans hs) ht

/-! ### The checks of a configuration (R8 to R15) -/

/-- Where R10 to R12 bound the time and the amplitude, neither operation of R8 faults, and the increment is the floor of the
quotient. -/
theorem rampInc_eq_floor {c : Cfg} {time : Nat} (h1 : 1 ≤ time) (h2 : time ≤ 65535) (hm1 : 1 ≤ c.maxAmplitude)
    (hm2 : c.maxAmplitude ≤ 32768) : rampInc c time = .ok ⌊(c.maxAmplitude : Rat) / time⌋ := by
  have hdivisor : fromInt15 c.overflowPolicy time = .ok ((time : Int) * 2 ^ 15) :=
    narrow32_of_fits ((fitsS32_iff _).mpr (by omega))
  have hquot : (c.maxAmplitude * 2 ^ 15).tdiv ((time : Int) * 2 ^ 15) = c.maxAmplitude / time := by
    rw [Int.mul_tdiv_mul_of_pos_left _ _ (by norm_num), Int.tdiv_eq_ediv_of_nonneg (by omega)]
  have hle : c.maxAmplitude / (time : Int) ≤ c.maxAmplitude := Int.ediv_le_self _ (by omega)
  have hge : 0 ≤ c.maxAmplitude / (time : Int) := Int.ediv_nonneg (by omega) (by omega)
  simp only [rampInc, hdivisor, div15, divFx]
  rw [if_neg (by omega), hquot, floor_div_nat, narrow32_of_fits ((fitsS32_iff _).mpr (by omega))]

/-- Ramp sizing (R10, R11), where the amplitude is in the range of R12. -/
theorem checkRamp_iff {c : Cfg} (hm : 1 ≤ c.maxAmplitude ∧ c.maxAmplitude ≤ 32768) (time : Nat) : checkRamp c time = true ↔
    1 ≤ time ∧ time ≤ 65535 ∧ |c.maxAmplitude - time * ⌊(c.maxAmplitude : Rat) / time⌋| ≤ 1 := by
  simp only [checkRamp, Bool.and_eq_true, decide_eq_true_eq, and_assoc]
  refine and_congr_right fun h1 => and_congr_right fun h2 => ?_
  rw [rampInc_eq_floor h1 h2 hm.1 hm.2, decide_eq_true_iff, Int.abs_eq_natAbs]
  omega

/-- The durations (R13): the six checks are one check of every effect. -/
theorem checkDurations_iff (c : Cfg) : checkDurations c = true ↔
    ∀ e, c.attackTime + c.decayTime < c.duration e ∧ c.duration e ≤ 2 ^ 32 - 1 := by
  refine ⟨checkDurations_duration, fun h => ?_⟩
  have key : ∀ e, checkDuration c e = true := fun e => by simpa [checkDuration] using h e
  simp [checkDurations, key]

/-- The law kinds (R14), on the coefficients themselves. -/
theorem checkLaws_iff (c : Cfg) : checkLaws c = true ↔
    (c.law .descend).a = 0 ∧ (c.law .linearB).a = 0 ∧ (c.law .linearC).a = 0 ∧ (c.law .descend).b < 0 ∧
      (c.law .parabolaA).a ≠ 0 ∧ (c.law .parabolaB).a ≠ 0 ∧ c.law .parabolaB ≠ c.law .parabolaA := by
  simp only [checkLaws, Bool.and_eq_true, decide_eq_true_eq, and_assoc, ne_eq, Rat.num_eq_zero, Rat.num_neg]

/-- Settles O9: each check is its rule's condition; the amplitude's range is what the ramp checks' increments rest on. -/
theorem configurationChecks : Obligations.ConfigurationChecks := by
  refine ⟨fun c => ?_, fun s hc => step_refused_of_not_configOk hc⟩
  rw [configOk_iff, checkAmplitude_iff, checkDurations_iff, checkLaws_iff, checkOutput_iff]
  constructor
  · rintro ⟨hattack, hdecay, hm, hrest⟩
    exact ⟨(checkRamp_iff hm _).mp hattack, (checkRamp_iff hm _).mp hdecay, hm, hrest⟩
  · rintro ⟨hattack, hdecay, hm, hrest⟩
    exact ⟨(checkRamp_iff hm _).mpr hattack, (checkRamp_iff hm _).mpr hdecay, hm, hrest⟩

end Sys2Proof.Machine
end

section
/-! Proofs of the statements of 10_state.md: what each operation may write and read of the state (R36, R38 to R44), the encodings of
STATE and TRIG (R45, R46), and the invariant, at reset (R50) and over a step (R34 to R42). -/

namespace Sys2Proof.Machine

/-! ### The invariant at reset (R50, R290) -/

/-- At reset the table is unbuilt, the voices are at reset and nothing is recorded, so each clause holds outright or of no case. -/
theorem resetWith_inv (c : Cfg) : (State.resetWith c).Inv where
  table_canonical := State.resetWith_table_wf c
  table_unbuilt := fun _ => rfl
  table_built := fun h => absurd rfl h
  voice1_inert := rfl
  fault_recorded := ⟨fun _ => rfl, fun _ => rfl⟩
  untouched := fun _ => ⟨rfl, rfl, rfl⟩
  idle_zero := fun _ => ⟨rfl, rfl⟩
  silent_zero := fun _ => rfl
  elapsed_bound := nofun
  tone_amp := nofun

/-- Settles O56: `State.reset` is the reset of the reference configuration. -/
theorem resetMeetsInvariant : Obligations.ResetMeetsInvariant :=
  ⟨resetWith_inv, resetWith_inv Cfg.reference⟩

/-- Settles O57: no index of the empty table is written. -/
theorem resetValues : Obligations.ResetValues :=
  fun _ => ⟨rfl, rfl, rfl, rfl, rfl, rfl, Memory.read_nil, rfl, rfl, rfl, rfl⟩

/-! ### The encodings (R45, R46) -/

/-- Settles O13: the six tags are the only trigger values that name an effect. -/
theorem tagEncoding : Obligations.TagEncoding :=
  ⟨⟨rfl, rfl, rfl, rfl, rfl, rfl, rfl⟩, ⟨rfl, rfl, rfl, rfl, rfl, rfl⟩, fun _ => effectOfTrig_none_of⟩

/-! ### What an operation may write (R36, R39, R40, R44) -/

/-- No operation changes voice 1, the configuration, or the elements performed and still to be performed. -/
theorem exec_keeps_inert {i : Instr} {s t : State} (h : exec i s = .next t) :
    t.voice1 = s.voice1 ∧ t.cfg = s.cfg ∧ t.op = s.op ∧ t.pending = s.pending := by
  rcases exec_next h with ⟨r, -, rfl⟩ | ⟨-, v, rfl⟩ | ⟨-, -, m, -, rfl⟩ | ⟨-, -, rfl⟩ | ⟨v, -, rfl⟩ | ⟨c, u, -, -, hu, rfl⟩
  · simp
  · simp
  · simp
  · simp
  · simp
  · obtain ⟨hvoice1, -, -, -, -, -, hcfg, hop, hpending, -⟩ := smTick_frame hu
    exact ⟨hvoice1, hcfg, hop, hpending⟩

/-- Only TICK writes voice 0, OUT and LAST_CTX. -/
theorem exec_keeps_voice0_out_lastCtx {i : Instr} {s t : State} (h : exec i s = .next t) (hi : ∀ c, i ≠ .tick c) :
    t.voice0 = s.voice0 ∧ t.out = s.out ∧ t.lastCtx = s.lastCtx := by
  rcases exec_next h with ⟨r, -, rfl⟩ | ⟨-, v, rfl⟩ | ⟨-, -, m, -, rfl⟩ | ⟨-, -, rfl⟩ | ⟨v, -, rfl⟩ | ⟨c, u, hc, -⟩
  · simp
  · simp
  · simp
  · simp
  · simp
  · exact absurd hc (hi c)

/-- Only TICK and WRITE_TRIGGER write TRIG. -/
theorem exec_keeps_trig {i : Instr} {s t : State} (h : exec i s = .next t) (hi : ∀ c, i ≠ .tick c)
    (hw : ∀ v, i ≠ .writeTrigger v) : t.trig = s.trig := by
  rcases exec_next h with ⟨r, -, rfl⟩ | ⟨-, v, rfl⟩ | ⟨-, -, m, -, rfl⟩ | ⟨-, -, rfl⟩ | ⟨v, hv, -⟩ | ⟨c, u, hc, -⟩
  · rfl
  · rfl
  · rfl
  · rfl
  · exact absurd hv (hw v)
  · exact absurd hc (hi c)

/-- Settles O54: of the six ways in which an operation answers a next state, BUILD_TABLE's and START_TIMER's alone write
LIFECYCLE. -/
theorem lifecycleMovesForward : Obligations.LifecycleMovesForward := by
  intro i s t h
  rcases exec_next h with ⟨r, -, rfl⟩ | ⟨-, v, rfl⟩ | ⟨hi, hl, m, -, rfl⟩ | ⟨hi, hl, rfl⟩ | ⟨v, -, rfl⟩ | ⟨c, u, -, -, hu, rfl⟩
  · exact .inl rfl
  · exact .inl rfl
  · exact .inr (.inl ⟨hi, hl, rfl⟩)
  · exact .inr (.inr ⟨hi, hl, rfl⟩)
  · exact .inl (State.writeTrig_lifecycle _ s)
  · obtain ⟨-, -, hlifecycle, -⟩ := smTick_frame hu
    exact .inl hlifecycle

/-- Settles O50, element by element; that LIFECYCLE is left alone is what `lifecycleMovesForward` says of the other operations. -/
theorem accessRights : Obligations.AccessRights := by
  intro i s t h
  refine ⟨exec_keeps_voice0_out_lastCtx h, exec_keeps_trig h, fun hbuild hstart => ?_, exec_keeps_inert h⟩
  rcases lifecycleMovesForward i s t h with hkeep | ⟨hi, -⟩ | ⟨hi, -⟩
  · exact hkeep
  · exact absurd hi hbuild
  · exact absurd hi hstart

/-- A TICK in RUNNING either raises a fault, or emits what its tick of the state machine emits: one sample, or none where quiet ticks
do not write. -/
theorem exec_tick_out {c : Nat} {s t : State} (h : exec (.tick c) s = .next t) :
    (t.fault ≠ .none ∧ t.out = s.out) ∨ (t.out = s.out ∧ s.cfg.quietTickWrites = false) ∨ ∃ x, t.out = s.out ++ [x] := by
  rcases exec_next h with ⟨r, hr, rfl⟩ | ⟨hi, -⟩ | ⟨hi, -⟩ | ⟨hi, -⟩ | ⟨v, hi, -⟩ | ⟨c', u, -, -, hu, rfl⟩
  · exact .inl ⟨hr, rfl⟩
  · simp [responders] at hi
  · cases hi
  · cases hi
  · cases hi
  · rw [State.setLastCtx_out]
    exact .inr (smTick_out hu)

/-- Settles O53: only a TICK writes OUT, and one that neither faults nor is quiet without writing emits a sample. -/
theorem oneSamplePerTick : Obligations.OneSamplePerTick := by
  intro i s t h
  constructor
  · by_cases hi : ∃ c, i = .tick c
    · obtain ⟨c, rfl⟩ := hi
      rcases exec_tick_out h with ⟨-, hout⟩ | ⟨hout, -⟩ | ⟨x, hout⟩
      · exact .inl hout
      · exact .inl hout
      · exact .inr ⟨c, x, rfl, hout⟩
    · obtain ⟨-, hout, -⟩ := exec_keeps_voice0_out_lastCtx h (not_exists.mp hi)
      exact .inl hout
  · rintro c rfl hquiet - - ht
    rcases exec_tick_out h with ⟨hfault, -⟩ | ⟨-, hnot⟩ | hout
    · exact absurd ht hfault
    · exact absurd (hquiet.symm.trans hnot) nofun
    · exact hout

/-! ### What an operation may read (R36, R38, R246) -/

/-- State `s` with other values in the two elements that the synthesis does not read, LAST_CTX and voice 1. -/
def State.withUnread (c : Word) (v : Voice) (s : State) : State := { s with lastCtx := c, voice1 := v }

/-! The elements that a tick of the state machine reads are the same in both states. -/

@[simp] theorem State.withUnread_voice0 (c : Word) (v : Voice) (s : State) : (s.withUnread c v).voice0 = s.voice0 := rfl
@[simp] theorem State.withUnread_table (c : Word) (v : Voice) (s : State) : (s.withUnread c v).table = s.table := rfl
@[simp] theorem State.withUnread_cfg (c : Word) (v : Voice) (s : State) : (s.withUnread c v).cfg = s.cfg := rfl
@[simp] theorem tonePhase_withUnread (c : Word) (v : Voice) (s : State) (t : Tone) :
    tonePhase (s.withUnread c v) t = tonePhase s t := rfl

theorem State.countSample_withUnread (c : Word) (v : Voice) (s : State) :
    (s.withUnread c v).countSample = s.countSample.withUnread c v := rfl

theorem State.quietEmit_withUnread (c : Word) (v : Voice) (s : State) :
    (s.withUnread c v).quietEmit = s.quietEmit.withUnread c v := by
  rw [State.quietEmit_eq, State.quietEmit_eq]
  rfl

theorem State.consumeTrigger_withUnread (c : Word) (v : Voice) (s : State) :
    (s.withUnread c v).consumeTrigger = s.consumeTrigger.withUnread c v := by
  cases he : effectOfTrig s.trig with
  | none => rw [State.consumeTrigger_none he, State.consumeTrigger_none (s := s.withUnread c v) he]
  | some e =>
    rw [State.consumeTrigger_some he, State.consumeTrigger_some (s := s.withUnread c v) he]
    rfl

theorem State.complete_withUnread (c : Word) (v : Voice) (e : Effect) (s : State) :
    (s.withUnread c v).complete e = (s.complete e).withUnread c v := by
  by_cases he : s.voice0.elapsed.toNat = s.cfg.duration e
  · rw [State.complete_of_eq he, State.complete_of_eq (s := s.withUnread c v) he]
    rfl
  · rw [State.complete_of_ne he, State.complete_of_ne (s := s.withUnread c v) he]

/-- The tone step reads voice 0, the table and the configuration: it takes the same branch in both states. -/
theorem synthTone_withUnread (c : Word) (v : Voice) (t : Tone) (s : State) :
    synthTone t (s.withUnread c v) = (synthTone t s).map (State.withUnread c v) := by
  unfold synthTone
  by_cases hf : audible (toneFreq s t) = false
  · rw [if_pos hf, if_pos (show audible (toneFreq (s.withUnread c v) t) = false from hf)]
    rfl
  · rw [if_neg hf, if_neg (show ¬ audible (toneFreq (s.withUnread c v) t) = false from hf)]
    simp only [tonePhase_withUnread, State.withUnread_voice0, State.withUnread_table, State.withUnread_cfg]
    split
    · rfl
    · split
      · rfl
      · split
        · rfl
        · rfl

/-- A tick of the state machine does the same whatever LAST_CTX and voice 1 hold, and keeps both. -/
theorem smTick_withUnread (c : Word) (v : Voice) (s : State) :
    smTick (s.withUnread c v) = (smTick s).map (State.withUnread c v) := by
  rcases hs : s.voice0.state with _ | t | _
  · rw [smTick_of_idle hs, smTick_of_idle (s := s.withUnread c v) hs]
    simp only [idleArm, State.consumeTrigger_withUnread, State.quietEmit_withUnread, Except.map]
  · rw [smTick_of_tone hs, smTick_of_tone (s := s.withUnread c v) hs]
    unfold toneArm
    rw [synthTone_withUnread]
    cases synthTone t s with
    | error e => rfl
    | ok u => simp only [Except.map, State.complete_withUnread]
  · rw [smTick_of_silent hs, smTick_of_silent (s := s.withUnread c v) hs]
    simp only [silentArm, State.quietEmit_withUnread, State.countSample_withUnread, State.complete_withUnread, Except.map]

/-- A response or a fault is the same in both states. -/
theorem State.respondWith_withUnread {c : Word} {v : Voice} {s t : State} {b : Except Raise Value}
    (h : s.respondWith b = .next t) : (s.withUnread c v).respondWith b = .next (t.withUnread c v) := by
  rcases State.respondWith_next h with ⟨x, rfl, rfl⟩ | ⟨r, rfl, rfl⟩
  · rfl
  · rfl

/-- An armed TICK's end: its body does the same in both states, and LAST_CTX is written over. -/
theorem execTick_withUnread {c : Word} {v : Voice} {ctx : Nat} {s t : State} (h : execTick ctx s = .next t) :
    (execTick ctx (s.withUnread c v) = .next (t.withUnread c v) ∧ t.lastCtx = s.lastCtx) ∨
      execTick ctx (s.withUnread c v) = .next { t with voice1 := v } := by
  rcases execTick_next h with ⟨hl, rfl⟩ | ⟨hl, r, hr, rfl⟩ | ⟨hl, u, hu, rfl⟩
  · exact .inl ⟨execTick_not_running (s := s.withUnread c v) ctx hl, rfl⟩
  · refine .inl ⟨execTick_of_smTick_raised ctx hl ?_, rfl⟩
    rw [smTick_withUnread, hr]
    rfl
  · refine .inr (execTick_of_smTick (u := u.withUnread c v) ctx hl ?_)
    rw [smTick_withUnread, hu]
    rfl

/-- WRITE_TRIGGER reads TRIG and the draw, which are the same in both states. -/
theorem State.writeTrig_withUnread (c : Word) (v : Voice) (b : Byte) (s : State) :
    (s.withUnread c v).writeTrig b = (s.writeTrig b).withUnread c v := by
  unfold State.writeTrig
  by_cases hb : collides s.trig b = true
  · rw [if_pos hb, if_pos (show collides (s.withUnread c v).trig b = true from hb)]
    rfl
  · rw [if_neg hb, if_neg (show ¬ collides (s.withUnread c v).trig b = true from hb)]
    rfl

/-- BUILD_TABLE reads LIFECYCLE, the table and the configuration. -/
theorem execBuildTable_withUnread {c : Word} {v : Voice} {s t : State} (h : execBuildTable s = .next t) :
    execBuildTable (s.withUnread c v) = .next (t.withUnread c v) := by
  unfold execBuildTable at h ⊢
  by_cases hl : s.lifecycle = .uninit
  · rw [if_neg (not_not.mpr hl)] at h
    rw [if_neg (not_not.mpr (show (s.withUnread c v).lifecycle = .uninit from hl))]
    simp only [State.withUnread_cfg, State.withUnread_table]
    cases hm : fillTable s.cfg (List.range Config.tableSize) s.table with
    | ok m => rw [hm] at h; cases h; rfl
    | error r => rw [hm] at h; cases h; rfl
  · rw [if_pos hl] at h
    rw [if_pos (show (s.withUnread c v).lifecycle ≠ .uninit from hl)]
    cases h
    rfl

/-- START_TIMER reads LIFECYCLE. -/
theorem execStartTimer_withUnread {c : Word} {v : Voice} {s t : State} (h : execStartTimer s = .next t) :
    execStartTimer (s.withUnread c v) = .next (t.withUnread c v) := by
  have hl : (s.withUnread c v).lifecycle = s.lifecycle := rfl
  unfold execStartTimer at h ⊢
  cases hs : s.lifecycle with
  | uninit => simp only [hl, hs] at h ⊢; cases h; rfl
  | ready => simp only [hl, hs] at h ⊢; cases h; rfl
  | running => simp only [hl, hs] at h ⊢; cases h; rfl

/-- Every operation but TICK does the same in both states, READ_DIAG if LAST_CTX is the same. -/
theorem exec_withUnread {i : Instr} {c : Word} {v : Voice} {s t : State} (hi : ∀ ctx, i ≠ .tick ctx)
    (hd : i = .readDiag → c = s.lastCtx) (h : exec i s = .next t) :
    exec i (s.withUnread c v) = .next (t.withUnread c v) := by
  cases i
  case tick ctx => exact absurd rfl (hi ctx)
  case buildTable => exact execBuildTable_withUnread h
  case startTimer => exact execStartTimer_withUnread h
  case writeTrigger b =>
    cases h
    exact congrArg Host.Outcome.next (State.writeTrig_withUnread c v _ s)
  case readDiag =>
    cases hd rfl
    cases h
    rfl
  case toInt15 => cases h; rfl
  case toFloat15 => cases h; rfl
  case toInt28 => cases h; rfl
  case toFloat28 => cases h; rfl
  all_goals exact State.respondWith_withUnread h

/-- Settles O51: a completed TICK writes LAST_CTX, and every other outcome keeps it. -/
theorem diagnosticsAndVoiceOneNotRead : Obligations.DiagnosticsAndVoiceOneNotRead := by
  intro i s t c v hd h
  by_cases hi : ∃ ctx, i = .tick ctx
  · obtain ⟨ctx, rfl⟩ := hi
    rcases execTick_withUnread (c := c) (v := v) h with ⟨hu, hkeep⟩ | hu
    · exact ⟨_, hu, rfl, .inr ⟨rfl, hkeep⟩⟩
    · exact ⟨_, hu, rfl, .inl rfl⟩
  · have hi := not_exists.mp hi
    obtain ⟨-, -, hkeep⟩ := exec_keeps_voice0_out_lastCtx h hi
    exact ⟨_, exec_withUnread hi hd h, rfl, .inr ⟨rfl, hkeep⟩⟩

/-! ### The invariant over a step (R34 to R36, R39, R41, R42, R81, R190 to R192, R220) -/

/-- What the invariant says of voice 0, as a predicate of the configuration and the voice alone. -/
structure VoiceInv (c : Cfg) (v : Voice) : Prop where
  idle_zero     : v.state = .idle → v.elapsed = 0 ∧ v.amp = 0
  silent_zero   : v.state = .playing .silent → v.amp = 0
  elapsed_bound : ∀ e, v.state = .playing e → v.elapsed.toNat < c.duration e
  tone_amp      : ∀ t, v.state = .playing (.tone t) → v.amp.toInt = plannedAmp c (c.duration (.tone t)) v.elapsed.toNat

theorem State.Inv.voiceInv {s : State} (h : s.Inv) : VoiceInv s.cfg s.voice0 :=
  ⟨h.idle_zero, h.silent_zero, h.elapsed_bound, h.tone_amp⟩

/-- IDLE with count and amplitude 0, as reset and the return of R215 leave it. -/
theorem voiceInv_idle (c : Cfg) (p : Word) : VoiceInv c { state := .idle, phase := p, amp := 0, elapsed := 0 } :=
  ⟨fun _ => ⟨rfl, rfl⟩, fun _ => rfl, nofun, nofun⟩

/-- The start of an effect that has at least one tick (R212): count 0, and amplitude 0 as planned. -/
theorem voiceInv_start {c : Cfg} {e : Effect} (p : Word) (hd : 0 < c.duration e) :
    VoiceInv c { state := .playing e, phase := p, amp := 0, elapsed := 0 } where
  idle_zero := nofun
  silent_zero := fun _ => rfl
  elapsed_bound := by
    rintro e' ⟨⟩
    exact hd
  tone_amp := fun t _ => (plannedAmp_zero c _).symm

/-- The silent effect between two of its ticks (R214). -/
theorem voiceInv_silent {c : Cfg} {v : Voice} (hs : v.state = .playing .silent) (ha : v.amp = 0)
    (hx : v.elapsed.toNat < c.duration .silent) : VoiceInv c v where
  idle_zero := fun h => absurd (hs.symm.trans h) nofun
  silent_zero := fun _ => ha
  elapsed_bound := fun e h => by
    cases hs.symm.trans h
    exact hx
  tone_amp := fun t h => absurd (hs.symm.trans h) nofun

/-- A tone effect between two of its ticks (R190 to R192). -/
theorem voiceInv_tone {c : Cfg} {v : Voice} {t : Tone} (hs : v.state = .playing (.tone t))
    (hx : v.elapsed.toNat < c.duration (.tone t))
    (ha : v.amp.toInt = plannedAmp c (c.duration (.tone t)) v.elapsed.toNat) : VoiceInv c v where
  idle_zero := fun h => absurd (hs.symm.trans h) nofun
  silent_zero := fun h => absurd (hs.symm.trans h) nofun
  elapsed_bound := fun e h => by
    cases hs.symm.trans h
    exact hx
  tone_amp := fun t' h => by
    cases hs.symm.trans h
    exact ha

/-- The completion test returns to IDLE, or leaves a voice that has not reached the duration (R215). -/
theorem complete_voiceInv {s : State} {e : Effect}
    (h : s.voice0.elapsed.toNat ≠ s.cfg.duration e → VoiceInv s.cfg s.voice0) :
    VoiceInv (s.complete e).cfg (s.complete e).voice0 := by
  rcases State.complete_cases s e with ⟨-, hu⟩ | ⟨hne, hu⟩
  · rw [hu]
    exact voiceInv_idle s.cfg s.voice0.phase
  · rw [hu]
    exact h hne

/-- The count that a tick leaves, short of the duration: it has not wrapped (R35, R220). -/
theorem succ_toNat_of_ne {c : Cfg} {e : Effect} {x : Word} (hc : configOk c = true) (hx : x.toNat < c.duration e)
    (hne : (x + 1).toNat ≠ c.duration e) : (x + 1).toNat = x.toNat + 1 ∧ x.toNat + 1 < c.duration e := by
  have hd := (duration_of_configOk hc e).2
  have h1 := succ_toNat_eq_iff x (by omega) hd
  have h2 := (succ_toNat_eq_iff x (d := x.toNat + 1) (by omega) (by omega)).mpr rfl
  omega

/-- The amplitude that a tone tick leaves, on every tick but the effect's last, is the planned one, held without loss (R187). -/
theorem envelope_toInt {c : Cfg} {e : Effect} {x : Nat} {amp : Int} (hc : configOk c = true) (hx : x + 1 < c.duration e)
    (he : envelope c e x (plannedAmp c (c.duration e) x) = .ok amp) :
    (toReg amp).toInt = plannedAmp c (c.duration e) (x + 1) := by
  obtain ⟨a, ha, hfits⟩ := envelope_fits hc (show x < c.duration e by omega)
  cases he.symm.trans ha
  cases he.symm.trans (envelope_planned hc hx)
  exact toReg_toInt hfits

/-- Every arm of the state machine keeps what the invariant says of voice 0. -/
theorem smTick_voiceInv {s u : State} (hc : configOk s.cfg = true) (h : VoiceInv s.cfg s.voice0) (hu : smTick s = .ok u) :
    VoiceInv u.cfg u.voice0 := by
  rcases smTick_ok hu with ⟨hs, rfl⟩ | ⟨hs, rfl⟩ | ⟨t, w, hs, hw, rfl⟩
  · simp only [idleArm, State.quietEmit_cfg, State.quietEmit_voice0]
    cases he : effectOfTrig s.trig with
    | none => rwa [State.consumeTrigger_none he]
    | some e =>
      have hd := (duration_of_configOk hc e).1
      rw [State.consumeTrigger_some he]
      exact voiceInv_start s.voice0.phase (show 0 < s.cfg.duration e by omega)
  · refine complete_voiceInv fun hne => ?_
    simp only [State.countSample_cfg, State.countSample_voice0, State.quietEmit_cfg, State.quietEmit_voice0] at hne ⊢
    obtain ⟨hsucc, hlt⟩ := succ_toNat_of_ne hc (h.elapsed_bound _ hs) hne
    exact voiceInv_silent hs (h.silent_zero hs) (hsucc.trans_lt hlt)
  · obtain ⟨-, raw, x, amp, -, -, hamp, rfl⟩ := synthTone_ok hw
    refine complete_voiceInv fun hne => ?_
    obtain ⟨hsucc, hlt⟩ := succ_toNat_of_ne hc (h.elapsed_bound _ hs) hne
    rw [h.tone_amp t hs] at hamp
    refine voiceInv_tone hs (hsucc.trans_lt hlt) ?_
    exact (envelope_toInt hc hlt hamp).trans (congrArg _ hsucc.symm)

/-- A completed TICK writes voice 0, TRIG, OUT and LAST_CTX in RUNNING, where the invariant speaks of voice 0 alone among them. -/
theorem tick_keeps_inv {s u : State} (c : Word) (hc : configOk s.cfg = true) (h : s.Inv) (hl : s.lifecycle = .running)
    (hu : smTick s = .ok u) : (u.setLastCtx c).Inv := by
  obtain ⟨hidle, hsilent, hbound, hamp⟩ := smTick_voiceInv hc h.voiceInv hu
  obtain ⟨hvoice1, -, hlifecycle, htable, hfault, hinfo, hcfg, -⟩ := smTick_frame hu
  have hrun : u.lifecycle = .running := hlifecycle.trans hl
  refine ⟨?_, ?_, ?_, ?_, ?_, ?_, hidle, hsilent, hbound, hamp⟩
  · simpa [htable] using h.table_canonical
  · simp [hrun]
  · simpa [hrun, hcfg, htable, hl] using h.table_built
  · exact hvoice1.trans h.voice1_inert
  · simpa [hfault, hinfo] using h.fault_recorded
  · simp [hrun]

/-- A raised fault writes the two fault registers together (R41, R262). -/
theorem raise_keeps_inv {s : State} {r : Raise} (h : s.Inv) (hr : r.code ≠ .none) : (s.raise r).Inv :=
  { h with fault_recorded := ⟨fun hf => absurd hf hr, nofun⟩ }

/-- BUILD_TABLE from UNINIT fills the table with SINE_TABLE_FN (R161), before which nothing has run. -/
theorem build_keeps_inv {s : State} {m : Memory} (h : s.Inv) (hl : s.lifecycle = .uninit)
    (hm : fillTable s.cfg (List.range Config.tableSize) s.table = .ok m) : ((s.setTable m).setLifecycle .ready).Inv :=
  { h with
    table_canonical := fillTable_wf hm (fun _ => List.mem_range.mp) h.table_canonical
    table_unbuilt := nofun
    table_built := fun _ i hi => fillTable_read hm List.nodup_range (List.mem_range.mpr hi)
    untouched := fun _ => h.untouched (by simp [hl]) }

/-- START_TIMER leaves the table that READY has built; the clause about the time before RUNNING ends (R39, R241). -/
theorem start_keeps_inv {s : State} (h : s.Inv) (hl : s.lifecycle = .ready) : (s.setLifecycle .running).Inv :=
  { h with
    table_unbuilt := nofun
    table_built := fun _ => h.table_built (by simp [hl])
    untouched := fun hne => absurd rfl hne }

/-- TRIG and the draws do not occur in the invariant. -/
theorem writeTrig_keeps_inv {s : State} (v : Byte) (h : s.Inv) : (s.writeTrig v).Inv := by
  unfold State.writeTrig
  split
  · exact { h with }
  · exact { h with }

/-- Every operation keeps the invariant, in each of the six ways in which it answers a next state. -/
theorem exec_keeps_inv {i : Instr} {s t : State} (hc : configOk s.cfg = true) (h : s.Inv) (ht : exec i s = .next t) : t.Inv := by
  rcases exec_next ht with ⟨r, hr, rfl⟩ | ⟨-, v, rfl⟩ | ⟨-, hl, m, hm, rfl⟩ | ⟨-, hl, rfl⟩ | ⟨v, -, rfl⟩ | ⟨c, u, -, hl, hu, rfl⟩
  · exact raise_keeps_inv h hr
  · exact { h with }
  · exact build_keeps_inv h hl hm
  · exact start_keeps_inv h hl
  · exact writeTrig_keeps_inv _ h
  · exact tick_keeps_inv _ hc h hl hu

/-- Settles O55: taking the element keeps the invariant, and so does what follows, a fault or the operation. -/
theorem stepKeepsInvariant : Obligations.StepKeepsInvariant := by
  intro s t h ht
  obtain ⟨hc, -, e, rest, -, hrest⟩ := step_next ht
  have haccept : (s.accept e rest).Inv := { h with }
  rcases hrest with ⟨r, hr, rfl⟩ | ⟨i, -, -, hi⟩
  · refine raise_keeps_inv haccept fun hnone => ?_
    simp [hnone] at hr
  · exact exec_keeps_inv (s := s.accept e rest) hc haccept hi

end Sys2Proof.Machine
end

section
/-! Proofs of the statements of 30_encoding.md: encoding and decoding are inverse to each other on the legal words (R91 to R95), the
illegal words and what a step makes of one (R96), the agent check (R101), and the pseudo-operations (R103). -/

namespace Sys2Proof

/-! ### A word and its four fields (R91) -/

/-- The four fields of R91 are the whole word. -/
theorem toNat_eq_byteFields (w : Word) :
    w.toNat = byteField w 24 * 2 ^ 24 + byteField w 16 * 2 ^ 16 + byteField w 8 * 2 ^ 8 + byteField w 0 := by
  have hw : w.toNat < 2 ^ 32 := w.isLt
  unfold byteField
  omega

theorem Instr.opcode_lt (i : Instr) : i.opcode < 256 := by
  cases i <;> simp [Instr.opcode]

/-- Both operand fields of a well-formed operation are bytes. -/
theorem Instr.fields_lt {i : Instr} (h : i.WellFormed) : i.ctxField < 256 ∧ i.imm8Field < 256 := by
  cases i with
  | tick ctx => exact ⟨of_decide_eq_true h, (by decide : 0 < 256)⟩
  | writeTrigger imm8 => exact ⟨(by decide : 0 < 256), of_decide_eq_true h⟩
  | _ => decide

/-- The encoding is the sum of its fields in their places: three bytes at bits 24, 8 and 0 do not overflow the word. -/
theorem encode_toNat {i : Instr} (h : i.WellFormed) :
    (encode i).toNat = i.opcode * 2 ^ 24 + i.ctxField * 2 ^ 8 + i.imm8Field := by
  have hopcode := i.opcode_lt
  obtain ⟨hctx, himm⟩ := Instr.fields_lt h
  unfold encode
  rw [BitVec.toNat_ofNat, Nat.mod_eq_of_lt (by omega)]

/-- Reading the fields of an encoding gives back what was put there, and the reserved field is 0. -/
theorem byteField_encode {i : Instr} (h : i.WellFormed) :
    byteField (encode i) 24 = i.opcode ∧ byteField (encode i) 16 = 0 ∧ byteField (encode i) 8 = i.ctxField ∧
      byteField (encode i) 0 = i.imm8Field := by
  have hopcode := i.opcode_lt
  obtain ⟨hctx, himm⟩ := Instr.fields_lt h
  simp only [byteField, encode_toNat h]
  omega

/-! ### Decoding from the fields (R93, R94) -/

/-- OPMAP's row for an operation's own code and fields is that operation. -/
theorem opmap_fields (i : Instr) : opmap i.opcode i.ctxField i.imm8Field = some i := by
  cases i <;> rfl

/-- An operation other than TICK has no context id. -/
theorem Instr.ctxField_of_opcode_ne {i : Instr} (h : i.opcode ≠ 3) : i.ctxField = 0 := by
  cases i with
  | tick ctx => exact absurd rfl h
  | _ => rfl

/-- An operation other than WRITE_TRIGGER has no immediate. -/
theorem Instr.imm8Field_of_opcode_ne {i : Instr} (h : i.opcode ≠ 4) : i.imm8Field = 0 := by
  cases i with
  | writeTrigger imm8 => exact absurd rfl h
  | _ => rfl

/-- Decode refuses a word that has no row in OPMAP, and a word that fails one of the three checks of R93. -/
theorem decode_error_iff (w : Word) : (∃ r, decode w = .error r) ↔
    opmap (byteField w 24) (byteField w 8) (byteField w 0) = none ∨ byteField w 16 ≠ 0 ∨
      (byteField w 24 ≠ 3 ∧ byteField w 8 ≠ 0) ∨ (byteField w 24 ≠ 4 ∧ byteField w 0 ≠ 0) := by
  unfold decode
  cases hrow : opmap (byteField w 24) (byteField w 8) (byteField w 0) with
  | none => simp
  | some i =>
    by_cases hrsv : byteField w 16 ≠ 0
    · simp [hrsv]
    by_cases hctx : byteField w 24 ≠ 3 ∧ byteField w 8 ≠ 0
    · simp [hrsv, hctx]
    by_cases himm : byteField w 24 ≠ 4 ∧ byteField w 0 ≠ 0
    · simp [hrsv, hctx, himm]
    · simp [hrsv, hctx, himm]

/-- Decode answers the operation of OPMAP's row, where the word passes the checks of R93. -/
theorem decode_of_opmap {w : Word} {i : Instr} (hrow : opmap (byteField w 24) (byteField w 8) (byteField w 0) = some i)
    (hrsv : byteField w 16 = 0) (hctx : byteField w 24 ≠ 3 → byteField w 8 = 0)
    (himm : byteField w 24 ≠ 4 → byteField w 0 = 0) : decode w = .ok i := by
  cases hd : decode w with
  | ok j => rw [← Option.some.inj ((decode_ok hd).1.symm.trans hrow)]
  | error r =>
    rcases (decode_error_iff w).mp ⟨r, hd⟩ with hnone | hne | ⟨hop, hne⟩ | ⟨hop, hne⟩
    · exact absurd (hnone.symm.trans hrow) nofun
    · exact absurd hrsv hne
    · exact absurd (hctx hop) hne
    · exact absurd (himm hop) hne

/-- The fields of a decoded word are those of the operation: a field that the operation does not have is 0 in the word. -/
theorem fields_of_decode {w : Word} {i : Instr} (h : decode w = .ok i) :
    i.opcode = byteField w 24 ∧ i.ctxField = byteField w 8 ∧ i.imm8Field = byteField w 0 ∧ byteField w 16 = 0 := by
  obtain ⟨hrow, hrsv, hctx, himm⟩ := decode_ok h
  obtain ⟨hopcode, hctxField, himm8Field, -⟩ := opmap_some hrow
  refine ⟨hopcode, ?_, ?_, hrsv⟩
  · rw [hctxField]
    exact ite_eq_left_iff.mpr fun hne => (hctx hne).symm
  · rw [himm8Field]
    exact ite_eq_left_iff.mpr fun hne => (himm hne).symm

theorem wellFormed_of_decode {w : Word} {i : Instr} (h : decode w = .ok i) : i.WellFormed := by
  obtain ⟨hrow, -⟩ := decode_ok h
  obtain ⟨-, -, -, hwf⟩ := opmap_some hrow
  exact hwf (byteField_lt w 8) (byteField_lt w 0)

/-! ### Encoding and decoding are inverse to each other (R91 to R95) -/

/-- Settles O1: the word's fields are the operation's, their row of OPMAP is the operation, and the fields it does not have pass
the checks. -/
theorem decodeEncodeRoundTrip : Obligations.DecodeEncodeRoundTrip := by
  intro i hwf
  obtain ⟨hopcode, hrsv, hctx, himm⟩ := byteField_encode hwf
  apply decode_of_opmap
  · rw [hopcode, hctx, himm]
    exact opmap_fields i
  · exact hrsv
  · rw [hopcode, hctx]
    exact Instr.ctxField_of_opcode_ne
  · rw [hopcode, himm]
    exact Instr.imm8Field_of_opcode_ne

/-- Settles O2: a word is the sum of its fields, and a legal word's are the operation's. -/
theorem encodeDecodeRoundTrip : Obligations.EncodeDecodeRoundTrip := by
  intro w i h
  have hwf := wellFormed_of_decode h
  obtain ⟨hopcode, hctx, himm, hrsv⟩ := fields_of_decode h
  refine ⟨hwf, BitVec.eq_of_toNat_eq ?_⟩
  rw [encode_toNat hwf, toNat_eq_byteFields w, hopcode, hctx, himm, hrsv, Nat.zero_mul, Nat.add_zero]

/-- Settles O4: decode computes on each word as written. -/
theorem specWordsDecode : Obligations.SpecWordsDecode :=
  ⟨by decide, by decide, by decide⟩

/-! ### The illegal words (R96) -/

/-- A field and a slice are on the same list of numbers. -/
theorem extract_mem_map_iff (w : Word) (lo : Nat) {l : List Nat} (hl : ∀ n ∈ l, n < 256) :
    w.extractLsb' lo 8 ∈ l.map (BitVec.ofNat 8) ↔ byteField w lo ∈ l := by
  rw [List.mem_map]
  constructor
  · rintro ⟨n, hn, heq⟩
    rwa [(extract_eq_iff w lo n (hl n hn)).mp heq.symm]
  · intro h
    exact ⟨_, h, ((extract_eq_iff w lo _ (hl _ h)).mpr rfl).symm⟩

/-- A slice differs from a number where the field does. -/
theorem extract_ne_iff (w : Word) (lo n : Nat) (hn : n < 256) :
    w.extractLsb' lo 8 ≠ BitVec.ofNat 8 n ↔ byteField w lo ≠ n :=
  not_congr (extract_eq_iff w lo n hn)

/-- Settles O3: the first case is a word without a row in OPMAP; the others are the checks of R93 on slices. -/
theorem illegalWordsAreTheReservedOnes : Obligations.IllegalWordsAreTheReservedOnes := by
  intro w
  rw [decode_error_iff, opmap_none]
  refine or_congr ?_ (or_congr ?_ (or_congr (and_congr ?_ ?_) (and_congr ?_ ?_)))
  · exact not_congr (extract_mem_map_iff w 24 (by decide)).symm
  · exact (extract_ne_iff w 16 0 (by decide)).symm
  · exact (extract_ne_iff w 24 3 (by decide)).symm
  · exact (extract_ne_iff w 8 0 (by decide)).symm
  · exact (extract_ne_iff w 24 4 (by decide)).symm
  · exact (extract_ne_iff w 0 0 (by decide)).symm

end Sys2Proof

namespace Sys2Proof.Machine

/-! ### What a step makes of an illegal word and of the wrong agent (R96, R101) -/

/-- Settles O6: decode refuses the word, so the step raises. -/
theorem illegalWordRaises : Obligations.IllegalWordRaises := by
  refine ⟨fun s e rest hc hf hp hillegal => ?_, by decide⟩
  obtain ⟨r, hr⟩ := (illegalWordsAreTheReservedOnes e.word).mpr hillegal
  exact step_illegal hc hf hp hr

/-- The agent of a legal word's operation, from the slice of its operation code (R94, R101). -/
theorem agent_of_decode {w : Word} {i : Instr} (h : decode w = .ok i) :
    i.agent = if w.extractLsb' 24 8 = 0x03 then .timer else .host := by
  rw [agent_opcode, decode_opcode h]
  exact if_congr (extract_eq_iff w 24 3 (by decide)).symm rfl rfl

/-- Settles O7: the agent that the slice names is the operation's, so the agent check fails and the step raises. -/
theorem wrongAgentRaises : Obligations.WrongAgentRaises := by
  intro s e rest i hc hf hp hd ha
  rw [← agent_of_decode hd] at ha
  exact step_wrongAgent hc hf hp hd ha

/-! ### The pseudo-operations (R103) -/

/-- Settles O60: every element of a list of copies is the one copied. -/
theorem pseudoOperationsExpand : Obligations.PseudoOperationsExpand := by
  refine ⟨fun n c => ⟨List.length_replicate, fun x hx => ?_⟩, rfl⟩
  rw [List.eq_of_mem_replicate hx]
  rfl

end Sys2Proof.Machine
end

section
/-! Proofs of the statements of 40_fixed_point.md: what each fixed-point operation responds or raises (R121 to R133), the laws of
the pure functions (R134 to R136), the rounding to binary32 (R127), and the multiplies and additions of a checked TICK, which
never overflow (R137). -/

namespace Sys2Proof.Machine

/-! ### Responses that are narrowed (R122 to R124, R128 to R130) -/

/-- Settles O14: the arithmetic shift of the product is the floor. -/
theorem multiplyResponds : Obligations.MultiplyResponds := by
  refine ⟨by decide, fun s => ⟨respondsNarrowed_of ?_, respondsNarrowed_of ?_⟩⟩
  · rw [floor_eq_sar]; rfl
  · rw [floor_eq_sar]; rfl

/-- A divide by zero raises, at either precision. -/
theorem divFx_zero (frac : Nat) (p : OverflowPolicy) (a : Int) :
    divFx frac p a 0 = .error { code := .fxDivZero, info := .int a } := if_pos rfl

/-- A divide by another number narrows the truncated rational quotient. -/
theorem divFx_of_ne_zero (frac : Nat) (p : OverflowPolicy) (a : Int) {b : Int} (hb : b ≠ 0) :
    divFx frac p a b = narrow32 p (truncTowardZero ((a : Rat) * 2 ^ frac / (b : Rat))) := by
  have htrunc := trunc_div (a * 2 ^ frac) b hb
  push_cast at htrunc
  rw [htrunc]
  exact if_neg hb

/-- Settles O15: each divide by zero raises, and every other one narrows the truncated quotient. -/
theorem divideResponds : Obligations.DivideResponds := by
  refine ⟨by decide, fun s => ⟨fun hb => ?_, fun hb => ⟨respondsNarrowed_of ?_, respondsNarrowed_of ?_⟩⟩⟩
  · have hzero : ∀ frac, s.respondWith (intResponse (divFx frac s.cfg.overflowPolicy s.portA s.portB)) =
        .next (s.faulting .fxDivZero (.int s.portA)) := fun frac => by
      rw [show s.portB = 0 from hb, divFx_zero]; rfl
    exact ⟨hzero 15, hzero 28⟩
  · rw [← divFx_of_ne_zero _ _ _ hb]; rfl
  · rw [← divFx_of_ne_zero _ _ _ hb]; rfl

/-- Settles O16: the scaled integer is narrowed as it is, and fits for the integers that the format can hold. -/
theorem fromIntResponds : Obligations.FromIntResponds := by
  refine ⟨by decide, fun s => ⟨respondsNarrowed_of rfl, ?_, respondsNarrowed_of rfl, ?_⟩⟩
  · unfold InS32; omega
  · unfold InS32; omega

/-! ### Responses that are not narrowed (R125 to R127, R131 to R133) -/

/-- Settles O17: the arithmetic shift of A is the floor, and takes the s32 range to the stated ones. -/
theorem toIntResponds : Obligations.ToIntResponds := by
  refine ⟨by decide, fun s => ?_⟩
  have hrange := (fitsS32_iff _).mp (toInt_fits s.op.ports.a)
  simp only [floor_eq_sar]
  refine ⟨⟨rfl, ?_⟩, rfl, ?_⟩
  · unfold sar; omega
  · unfold sar; omega

/-- An operation that responds `from_float(F)` (R126, R132). -/
theorem fromFloat_responds_or_raises {i : Instr} {s : State} {frac : Nat}
    (h : exec i s = s.respondWith (intResponse (fromFloatFx frac s.portF))) :
    (InS32 (truncTowardZero (s.portF * 2 ^ frac)) →
      exec i s = .next (s.responding (.int (truncTowardZero (s.portF * 2 ^ frac))))) ∧
    (¬ InS32 (truncTowardZero (s.portF * 2 ^ frac)) → exec i s = .next (s.faulting .fxFloatRange (.rat s.portF))) := by
  rw [inS32_iff, trunc_eq_scaleTrunc, h]
  constructor
  · intro hfits; rw [fromFloatFx_of_fits hfits]; rfl
  · intro hnot; rw [fromFloatFx_of_not_fits (by simpa using hnot)]; rfl

/-- Settles O18: no policy occurs in the conversion. -/
theorem fromFloatResponds : Obligations.FromFloatResponds := by
  refine ⟨by decide, fun s => ?_⟩
  obtain ⟨hfits15, hnot15⟩ := fromFloat_responds_or_raises (i := .fromFloat15) (s := s) (frac := 15) rfl
  obtain ⟨hfits28, hnot28⟩ := fromFloat_responds_or_raises (i := .fromFloat28) (s := s) (frac := 28) rfl
  exact ⟨hfits15, hnot15, hfits28, hnot28⟩

/-- Settles O19: the configuration chooses between the two quotients. -/
theorem toFloatResponds : Obligations.ToFloatResponds := by
  have hexec : ∀ s : State, exec .toFloat15 s = .next (s.responding (.rat (toFloatFx 15 s.cfg.toFloatRounding s.portA))) ∧
      exec .toFloat28 s = .next (s.responding (.rat (toFloatFx 28 s.cfg.toFloatRounding s.portA))) := fun s => ⟨rfl, rfl⟩
  refine fun s => ⟨fun hmode => ?_, fun hmode => ?_⟩
  · have h := hexec s
    rw [hmode] at h
    exact h
  · have h := hexec s
    rw [hmode] at h
    exact h

/-- No operation's own rule raises NONE (R263). -/
theorem none_notMem_faultsOf (i : Instr) : FaultCode.none ∉ faultsOf i := by
  cases i <;> simp [faultsOf]

/-- Settles O52: a response appends to the responses, and a fault that a responder raises is none but those of its rule. -/
theorem respondingOperationsWriteNoState : Obligations.RespondingOperationsWriteNoState := by
  intro i s hi
  rcases exec_responder hi s with ⟨v, hv⟩ | ⟨r, hr, hcode, -⟩
  · exact .inl ⟨v, hv⟩
  · exact .inr ⟨r.code, r.info, ne_of_mem_of_not_mem hcode (none_notMem_faultsOf i), hr⟩

/-! ### Laws of multiply and divide (R134, R135) -/

/-- Multiply by 1.0 of the format is the identity. -/
theorem mulFx_one (frac : Nat) (p : OverflowPolicy) {a : Int} (ha : InS32 a) : mulFx frac p a (2 ^ frac) = .ok a := by
  have hshift : sar (a * 2 ^ frac) frac = a := Int.mul_ediv_cancel a (by positivity)
  unfold mulFx
  rw [hshift]
  exact narrow32_of_fits ((inS32_iff a).mp ha)

theorem mulFx_zero (frac : Nat) (p : OverflowPolicy) (a : Int) : mulFx frac p a 0 = .ok 0 := by
  simp [mulFx, sar, narrow32, fitsS32]

theorem mulFx_comm (frac : Nat) (p : OverflowPolicy) (a b : Int) : mulFx frac p a b = mulFx frac p b a := by
  rw [mulFx, mulFx, Int.mul_comm]

/-- Settles O21, with 32768 = 2^15 as 1.0. -/
theorem multiplyLaws : Obligations.MultiplyLaws := fun p a b ha _ =>
  ⟨mulFx_one 15 p ha, mulFx_zero 15 p a, mulFx_comm 15 p a b, mulFx_one 28 p ha, mulFx_zero 28 p a, mulFx_comm 28 p a b⟩

/-- Under the fault policy a completed narrowing has changed nothing. -/
theorem narrow32_fault_eq_ok {v r : Int} (h : narrow32 .fault v = .ok r) : r = v := by
  cases hfits : fitsS32 v with
  | true => exact Except.ok.inj (h.symm.trans (narrow32_of_fits hfits))
  | false => exact absurd (h.symm.trans (narrow32_fault hfits)) nofun

/-- A completed divide under the fault policy: the divisor is not zero, and the quotient is in s32. -/
theorem divFx_fault_eq_ok {frac : Nat} {a b r : Int} (h : divFx frac .fault a b = .ok r) :
    b ≠ 0 ∧ r = (a * 2 ^ frac).tdiv b ∧ fitsS32 r = true := by
  by_cases hb : b = 0
  · rw [hb, divFx_zero] at h
    cases h
  · replace h : narrow32 .fault ((a * 2 ^ frac).tdiv b) = .ok r := (if_neg hb).symm.trans h
    exact ⟨hb, narrow32_fault_eq_ok h, narrow32_ok_fits h⟩

/-- Negating either operand negates a quotient whose negation is in s32: truncation is symmetric about zero. -/
theorem divFx_neg {frac : Nat} {a b r : Int} (hr : r ≠ -2 ^ 31) (h : divFx frac .fault a b = .ok r) :
    divFx frac .fault (-a) b = .ok (-r) ∧ divFx frac .fault a (-b) = .ok (-r) := by
  obtain ⟨hb, hquot, hfits⟩ := divFx_fault_eq_ok h
  rw [fitsS32_iff] at hfits
  have hneg : narrow32 .fault (-r) = .ok (-r) := narrow32_of_fits ((fitsS32_iff _).mpr (by omega))
  unfold divFx
  rw [if_neg hb, if_neg (neg_ne_zero.mpr hb), Int.neg_mul, Int.neg_tdiv, Int.tdiv_neg, ← hquot]
  exact ⟨hneg, hneg⟩

/-- Settles O22: one argument at both precisions. -/
theorem divideSignSymmetry : Obligations.DivideSignSymmetry :=
  fun _ _ _ hr => ⟨divFx_neg hr, divFx_neg hr⟩

/-! ### Round trips (R136) -/

/-- Truncation moves a rational by less than 1, toward zero. -/
theorem truncTowardZero_near (q : Rat) :
    |(truncTowardZero q : Rat) - q| < 1 ∧ |(truncTowardZero q : Rat)| ≤ |q| ∧ 0 ≤ (truncTowardZero q : Rat) * q := by
  unfold truncTowardZero
  split
  · next hq =>
    have hfloor : (0 : Rat) ≤ ⌊q⌋ := by exact_mod_cast Int.floor_nonneg.mpr hq
    have hle := Int.floor_le q
    have hlt := Int.lt_floor_add_one q
    refine ⟨abs_lt.mpr ⟨by linarith, by linarith⟩, ?_, mul_nonneg hfloor hq⟩
    rwa [abs_of_nonneg hfloor, abs_of_nonneg hq]
  · next hq =>
    replace hq : q ≤ 0 := (not_le.mp hq).le
    have hceil : (⌈q⌉ : Rat) ≤ 0 := by exact_mod_cast Int.ceil_le.mpr (by simpa using hq)
    have hle := Int.le_ceil q
    have hlt := Int.ceil_lt_add_one q
    refine ⟨abs_lt.mpr ⟨by linarith, by linarith⟩, ?_, mul_nonneg_of_nonpos_of_nonpos hceil hq⟩
    rw [abs_of_nonpos hceil, abs_of_nonpos hq]
    linarith

/-- Real to fixed point and back, exactly: what truncation does to `v * 2^frac`, scaled back. -/
theorem toFloatFx_fromFloatFx {frac : Nat} {v : Rat} {r : Int} (h : fromFloatFx frac v = .ok r) :
    |toFloatFx frac .exact r - v| < 1 / 2 ^ frac ∧ |toFloatFx frac .exact r| ≤ |v| ∧ 0 ≤ toFloatFx frac .exact r * v := by
  obtain ⟨hr, -⟩ := fromFloatFx_ok h
  have hpow : (0 : Rat) < 2 ^ frac := by positivity
  obtain ⟨hnear, habs, hsign⟩ := truncTowardZero_near (v * 2 ^ frac)
  rw [trunc_eq_scaleTrunc, ← hr] at hnear habs hsign
  have hback : (r : Rat) = toFloatFx frac .exact r * 2 ^ frac := (div_mul_cancel₀ _ hpow.ne').symm
  rw [hback] at hnear habs hsign
  rw [← sub_mul, abs_mul, abs_of_pos hpow] at hnear
  rw [abs_mul, abs_mul, abs_of_pos hpow] at habs
  rw [mul_mul_mul_comm] at hsign
  exact ⟨(lt_div_iff₀ hpow).mpr hnear, le_of_mul_le_mul_right habs hpow,
    nonneg_of_mul_nonneg_left hsign (mul_pos hpow hpow)⟩

/-- Integer to fixed point and back. -/
theorem toIntFx_fromIntFx {frac : Nat} {i r : Int} (h : fromIntFx frac .fault i = .ok r) : toIntFx frac r = i := by
  rw [narrow32_fault_eq_ok h]
  exact Int.mul_ediv_cancel i (by positivity)

/-- Settles O23: one argument at both precisions, for the reals and for the integers. -/
theorem fixedPointRoundTrip : Obligations.FixedPointRoundTrip :=
  ⟨fun _ _ => toFloatFx_fromFloatFx, fun _ _ => toFloatFx_fromFloatFx, fun _ _ => ⟨toIntFx_fromIntFx, toIntFx_fromIntFx⟩⟩

/-! ### Rounding to binary32 (R127) -/

/-- `m * 2^k` is a nearest number to `x` among those with at most 24 significand bits, and with an even significand of full length
where another is as near. -/
def NearestEven (x m : Int) (k : Nat) : Prop :=
  ∀ (m' : Int) (k' : Nat), |m'| ≤ 2 ^ 24 →
    |m * 2 ^ k - x| ≤ |m' * 2 ^ k' - x| ∧
    (|m * 2 ^ k - x| = |m' * 2 ^ k' - x| → m' * 2 ^ k' = m * 2 ^ k ∨ (2 ∣ m ∧ 2 ^ 23 ≤ |m|))

/-- Sign and magnitude: the nearest number to `-x` is the negation of the nearest to `x`. -/
theorem NearestEven.neg {x m : Int} {k : Nat} (h : NearestEven x m k) : NearestEven (-x) (-m) k := by
  have hdist : ∀ (j : Int) (i : Nat), |-j * 2 ^ i - -x| = |j * 2 ^ i - x| := fun j i => by
    rw [show -j * 2 ^ i - -x = -(j * 2 ^ i - x) by ring, abs_neg]
  intro m' k' hm'
  obtain ⟨hle, htie⟩ := h (-m') k' (by rwa [abs_neg])
  rw [← hdist (-m') k', neg_neg] at hle htie
  rw [hdist m k, abs_neg, Int.dvd_neg]
  refine ⟨hle, fun heq => (htie heq).imp_left fun hsame => ?_⟩
  linarith

/-- The three cases of rounding to a multiple of `2^k`: down, up, and on a tie to the even one of the two multiples. -/
theorem roundShiftEven_cases (n k : Nat) :
    (2 * (n % 2 ^ k) < 2 ^ k ∧ roundShiftEven n k = n / 2 ^ k) ∨
    (2 ^ k < 2 * (n % 2 ^ k) ∧ roundShiftEven n k = n / 2 ^ k + 1) ∨
    (2 * (n % 2 ^ k) = 2 ^ k ∧ roundShiftEven n k = n / 2 ^ k + n / 2 ^ k % 2) := by
  unfold roundShiftEven
  dsimp only
  split
  · next hdown => exact .inl ⟨hdown, rfl⟩
  · next hdown =>
    split
    · next hup => exact .inr (.inl ⟨hup, rfl⟩)
    · next hup => exact .inr (.inr ⟨by omega, rfl⟩)

/-- The multiple of `2^k` that `roundShiftEven` counts is at most half a step away, and is even where it is just half a step. -/
theorem roundShiftEven_half_step (n k : Nat) :
    2 * |(roundShiftEven n k : Int) * 2 ^ k - n| ≤ 2 ^ k ∧
    (2 * |(roundShiftEven n k : Int) * 2 ^ k - n| = 2 ^ k → (2 : Int) ∣ roundShiftEven n k) := by
  have hdiv : (n : Int) = (n / 2 ^ k : Nat) * 2 ^ k + (n % 2 ^ k : Nat) := by
    exact_mod_cast (Nat.div_add_mod' n (2 ^ k)).symm
  have hrem : ((n % 2 ^ k : Nat) : Int) < 2 ^ k := by exact_mod_cast Nat.mod_lt n (Nat.two_pow_pos k)
  have hstep : ((2 ^ k : Nat) : Int) = 2 ^ k := by push_cast; rfl
  have hdown : roundShiftEven n k = n / 2 ^ k →
      |(roundShiftEven n k : Int) * 2 ^ k - n| = (n % 2 ^ k : Nat) := fun hm => by
    rw [hm, hdiv, sub_add_cancel_left, abs_neg, abs_of_nonneg (Int.natCast_nonneg _)]
  have hup : roundShiftEven n k = n / 2 ^ k + 1 →
      |(roundShiftEven n k : Int) * 2 ^ k - n| = 2 ^ k - (n % 2 ^ k : Nat) := fun hm => by
    rw [hm, Nat.cast_succ, hdiv, add_one_mul, add_sub_add_left_eq_sub, abs_of_nonneg (by linarith)]
  rcases roundShiftEven_cases n k with ⟨hr, hm⟩ | ⟨hr, hm⟩ | ⟨hr, hm⟩
  · rw [hdown hm]; omega
  · rw [hup hm]; omega
  · refine ⟨?_, fun _ => by omega⟩
    rcases Nat.mod_two_eq_zero_or_one (n / 2 ^ k) with hq | hq
    · rw [hdown (by omega)]; omega
    · rw [hup (by omega)]; omega

/-- A multiple of the step at most half a step away from `x` is the nearest one, and another is as near only at half a step. -/
theorem nearest_of_half_step {x m P : Int} (h : 2 * |m * P - x| ≤ P) (j : Int) :
    |m * P - x| ≤ |j * P - x| ∧ (|m * P - x| = |j * P - x| → j = m ∨ 2 * |m * P - x| = P) := by
  by_cases hj : j = m
  · exact ⟨by rw [hj], fun _ => .inl hj⟩
  · have hP : 0 ≤ P := le_trans (by positivity) h
    have hstep : P ≤ |j * P - m * P| := by
      rw [← sub_mul, abs_mul, abs_of_nonneg hP]
      exact le_mul_of_one_le_left hP (Int.one_le_abs (sub_ne_zero.mpr hj))
    have htriangle : |j * P - m * P| ≤ |j * P - x| + |m * P - x| := by
      simpa [abs_sub_comm x] using abs_sub_le (j * P) x (m * P)
    exact ⟨by linarith, fun heq => .inr (by linarith)⟩

/-- A number with at most 24 significand bits is a multiple of `2^k`, or less than `2^23` of them. -/
theorem multiple_or_lt_of_abs_le {m' : Int} (hm' : |m'| ≤ 2 ^ 24) (k' k : Nat) :
    (∃ j, m' * 2 ^ k' = j * 2 ^ k) ∨ m' * 2 ^ k' < 2 ^ 23 * 2 ^ k := by
  rcases le_or_gt k k' with hk | hk
  · exact .inl ⟨m' * 2 ^ (k' - k), by rw [mul_assoc, ← pow_add, Nat.sub_add_cancel hk]⟩
  · have hle : m' * 2 ^ k' ≤ 2 ^ 23 * 2 ^ k := calc
      m' * 2 ^ k' ≤ 2 ^ 24 * 2 ^ k' := by gcongr; exact (le_abs_self m').trans hm'
      _ = 2 ^ 23 * 2 ^ (k' + 1) := by ring
      _ ≤ 2 ^ 23 * 2 ^ k := by gcongr <;> omega
    exact hle.eq_or_lt.imp_left fun heq => ⟨2 ^ 23, heq⟩

/-- Rounding leaves the quotient or the next number. -/
theorem roundShiftEven_mem_Icc (n k : Nat) : roundShiftEven n k ∈ Set.Icc (n / 2 ^ k) (n / 2 ^ k + 1) := by
  rw [Set.mem_Icc]
  rcases roundShiftEven_cases n k with ⟨-, hm⟩ | ⟨-, hm⟩ | ⟨-, hm⟩ <;> omega

/-- Where `n` is at least `2^23 * 2^k`, a number that is no multiple of `2^k` is farther away than that multiple, and so than the
nearest one. -/
theorem roundShiftEven_nearestEven {n k : Nat} (h : 2 ^ 23 * 2 ^ k ≤ n) : NearestEven n (roundShiftEven n k) k := by
  obtain ⟨hhalf, heven⟩ := roundShiftEven_half_step n k
  have hlarge : (2 : Int) ^ 23 ≤ |(roundShiftEven n k : Int)| := by
    have hquot : 2 ^ 23 ≤ n / 2 ^ k := (Nat.le_div_iff_mul_le (Nat.two_pow_pos k)).mpr h
    rw [Nat.abs_cast]
    exact_mod_cast hquot.trans (roundShiftEven_mem_Icc n k).1
  intro m' k' hm'
  rcases multiple_or_lt_of_abs_le hm' k' k with ⟨j, hj⟩ | hsmall
  · rw [hj]
    obtain ⟨hle, htie⟩ := nearest_of_half_step hhalf j
    exact ⟨hle, fun heq => (htie heq).imp (fun hsame => by rw [hsame]) fun hmid => ⟨heven hmid, hlarge⟩⟩
  · have hn : (2 : Int) ^ 23 * 2 ^ k ≤ n := by exact_mod_cast h
    have hfar : |(2 : Int) ^ 23 * 2 ^ k - n| < |m' * 2 ^ k' - n| := by
      rw [abs_of_nonpos (by linarith), abs_of_nonpos (by linarith)]
      linarith
    obtain ⟨hle, -⟩ := nearest_of_half_step hhalf (2 ^ 23)
    exact ⟨(hle.trans_lt hfar).le, fun heq => absurd heq (hle.trans_lt hfar).ne⟩

/-- A number that is its own significand has itself as the one nearest. -/
theorem nearestEven_self (x : Int) : NearestEven x x 0 := by
  intro m' k' _
  rw [pow_zero, mul_one, sub_self, abs_zero]
  exact ⟨abs_nonneg _, fun heq => .inl (sub_eq_zero.mp (abs_eq_zero.mp heq.symm))⟩

theorem roundShiftEven_zero (n : Nat) : roundShiftEven n 0 = n := by
  simp [roundShiftEven, Nat.mod_one]

/-- Rounding to 24 significant bits: a number below `2^24` is kept, and a longer one is rounded where its 24 leading bits end. -/
theorem roundSig24_nearestEven (n : Nat) : ∃ m k : Nat, m ≤ 2 ^ 24 ∧ roundSig24 n = m * 2 ^ k ∧ NearestEven n m k := by
  refine ⟨roundShiftEven n (n.log2 - 23), n.log2 - 23, ?_, rfl, ?_⟩
  · have hquot : n / 2 ^ (n.log2 - 23) < 2 ^ 24 := by
      rw [Nat.div_lt_iff_lt_mul (Nat.two_pow_pos _), ← pow_add]
      exact Nat.lt_log2_self.trans_le (Nat.pow_le_pow_right (by decide) (by omega))
    exact (roundShiftEven_mem_Icc n _).2.trans hquot
  · rcases Nat.eq_zero_or_pos (n.log2 - 23) with hk | hk
    · rw [hk, roundShiftEven_zero]
      exact nearestEven_self n
    · refine roundShiftEven_nearestEven ?_
      rw [← pow_add, show 23 + (n.log2 - 23) = n.log2 by omega]
      exact Nat.log2_self_le (by rintro rfl; simp at hk)

theorem roundBinary32Raw_natCast (n : Nat) : roundBinary32Raw n = roundSig24 n := by
  rcases eq_or_ne n 0 with rfl | hn
  · rfl
  · rw [roundBinary32Raw, Int.sign_natCast_of_ne_zero hn, one_mul, Int.natAbs_natCast]

theorem roundBinary32Raw_neg (x : Int) : roundBinary32Raw (-x) = -roundBinary32Raw x := by
  simp [roundBinary32Raw]

/-- Settles O20: the magnitude is rounded, and the sign taken along; the range of s32 plays no part. -/
theorem binary32RoundingIsNearestEven : Obligations.Binary32RoundingIsNearestEven := by
  intro x _
  obtain ⟨m, k, hm, hround, hnear⟩ := roundSig24_nearestEven x.natAbs
  have hm : |(m : Int)| ≤ 2 ^ 24 := by rw [Nat.abs_cast]; exact_mod_cast hm
  have habs : roundBinary32Raw x.natAbs = m * 2 ^ k := by
    rw [roundBinary32Raw_natCast, hround]
    push_cast
    rfl
  rcases Int.natAbs_eq x with hx | hx
  · rw [← hx] at habs hnear
    exact ⟨m, k, hm, habs, hnear⟩
  · refine ⟨-m, k, by rwa [abs_neg], ?_, ?_⟩
    · rw [hx, roundBinary32Raw_neg, habs, neg_mul]
    · rw [hx]
      exact hnear.neg

/-! ### A TICK under a checked configuration (R137) -/

/-- A tick of the state machine completes, but in a tone effect whose law leaves its range: the table's entry is written, and the
multiply and the addition fit. -/
theorem smTick_completes_or_inaudible {s : State} (hc : configOk s.cfg = true) (hi : s.Inv) (hl : s.lifecycle = .running) :
    (∃ u, smTick s = .ok u) ∨ ∃ tone, s.voice0.state = .playing (.tone tone) ∧ audible (toneFreq s tone) = false ∧
      smTick s = .error (.raised { code := .freqRange, info := .rat (toneFreq s tone) }) := by
  rcases hs : s.voice0.state with _ | tone | _
  · exact .inl ⟨_, smTick_of_idle hs⟩
  · rw [smTick_of_tone hs, toneArm]
    cases haudible : audible (toneFreq s tone) with
    | true =>
      obtain ⟨amp, x, hstep⟩ := synthTone_completes hc hi hl hs haudible
      rw [hstep]
      exact .inl ⟨_, rfl⟩
    | false =>
      have hstep : synthTone tone s = .error (.raised { code := .freqRange, info := .rat (toneFreq s tone) }) :=
        if_pos haudible
      rw [hstep]
      exact .inr ⟨tone, rfl, haudible, rfl⟩
  · exact .inl ⟨_, smTick_of_silent hs⟩

/-- Settles O40: a completed tick keeps FAULT and records the context, and the other raises. -/
theorem checkedTickCompletes : Obligations.CheckedTickCompletes := by
  intro s ctx hc hi hfault hl hctx
  rcases smTick_completes_or_inaudible hc hi hl with ⟨u, hu⟩ | ⟨tone, hs, haudible, hraise⟩
  · obtain ⟨-, -, -, -, hkeep, -⟩ := smTick_frame hu
    exact ⟨_, execTick_of_smTick ctx hl hu, .inl ⟨hkeep.trans hfault, zextCtx_of_lt hctx⟩⟩
  · exact ⟨_, execTick_of_smTick_raised ctx hl hraise, .inr ⟨rfl, tone, hs, haudible⟩⟩

end Sys2Proof.Machine
end

section
/-! Proofs of the statements of 41_oscillator_table.md: the values of SINE_TABLE_FN (R160, R165), what BUILD_TABLE does in each
lifecycle phase (R161, R162), and the reference table (R166, R167). -/

namespace Sys2Proof.Machine

/-! ### SINE_TABLE_FN (R160, R165) -/

/-- A real number has one truncation. -/
theorem TruncatesTo.unique {x : ℝ} {a b : Int} (ha : TruncatesTo x a) (hb : TruncatesTo x b) : a = b := by
  rcases le_total 0 x with hx | hx
  · exact (ha.1 hx).trans (hb.1 hx).symm
  · exact (ha.2 hx).trans (hb.2 hx).symm

/-- The truncation of a real number inside the s32 range is in s32. -/
theorem TruncatesTo.inS32 {x : ℝ} {r : Int} (h : TruncatesTo x r) (hx : |x| < 2 ^ 31) : InS32 r := by
  obtain ⟨hlow, hhigh⟩ := abs_lt.mp hx
  rcases le_total 0 x with h0 | h0
  · have hfloor : 0 ≤ r := by rw [h.1 h0]; exact Int.floor_nonneg.mpr h0
    have hlt : r < 2 ^ 31 := by rw [h.1 h0, Int.floor_lt]; exact_mod_cast hhigh
    exact ⟨by omega, hlt⟩
  · have hceil : r ≤ 0 := by rw [h.2 h0, Int.ceil_le]; exact_mod_cast h0
    have hlt : -2 ^ 31 < r := by rw [h.2 h0, Int.lt_ceil]; exact_mod_cast hlow
    exact ⟨hlt.le, by omega⟩

/-- The values of the reference function are those the model computes. -/
theorem SineValues.eq_peakSine {c : Cfg} {r : Nat → Int} (h : SineValues c r) (hc : c.sineTable = .exactSine) {i : Nat}
    (hi : i < 256) : r i = peakSine c.peakAmplitude i := by
  unfold SineValues at h
  rw [hc] at h
  exact (h i hi).unique (peakSine_truncates _ hi)

/-- The values of a deployed table are its entries. -/
theorem SineValues.eq_entry {c : Cfg} {r : Nat → Int} (h : SineValues c r) {t : Vector Word 256}
    (hc : c.sineTable = .deployed t) {i : Nat} (hi : i < 256) : r i = (t.toList.getD i 0).toInt := by
  unfold SineValues at h
  rw [hc] at h
  simp [h i hi, hi]

/-- `SINE_TABLE_FN` gives a value that is in s32, and raises the range fault on one that is not. -/
theorem sineTableFn_eq_of_values {c : Cfg} {r : Nat → Int} (h : SineValues c r) {i : Nat} (hi : i < 256) :
    sineTableFn c i = if fitsS32 (r i) then .ok (r i)
      else .error { code := .fxFloatRange, info := .rat (sineRangeInfo c.peakAmplitude i) } := by
  rcases sineTableFn_cases c i with ⟨t, hc, heq⟩ | ⟨hc, hfits, heq⟩ | ⟨hc, hfits, heq⟩
  · rw [heq, h.eq_entry hc hi, if_pos (toInt_fits _)]
  · rw [heq, h.eq_peakSine hc hi, if_pos hfits]
  · rw [heq, h.eq_peakSine hc hi, if_neg (by simp [hfits])]

theorem sineTableFn_of_inS32 {c : Cfg} {r : Nat → Int} (h : SineValues c r) {i : Nat} (hi : i < 256) (hr : InS32 (r i)) :
    sineTableFn c i = .ok (r i) := by
  rw [sineTableFn_eq_of_values h hi, if_pos ((inS32_iff _).mp hr)]

theorem sineTableFn_of_not_inS32 {c : Cfg} {r : Nat → Int} (h : SineValues c r) {i : Nat} (hi : i < 256)
    (hr : ¬ InS32 (r i)) :
    sineTableFn c i = .error { code := .fxFloatRange, info := .rat (sineRangeInfo c.peakAmplitude i) } := by
  rw [sineTableFn_eq_of_values h hi, if_neg fun hfits => hr ((inS32_iff _).mpr hfits)]

/-- Settles O24: the values are the model's own, since a truncation is unique. -/
theorem sineTableFunction : Obligations.SineTableFunction :=
  fun _ _ _ h hi => ⟨sineTableFn_of_inS32 h hi, fun hr => ⟨_, sineTableFn_of_not_inS32 h hi hr⟩⟩

/-- R15 bounds the peak, and the sine is at most 1, so the reference value is in s32; a deployed entry is in s32 by its type. -/
theorem SineValues.inS32_of_configOk {c : Cfg} {r : Nat → Int} (h : SineValues c r) (hc : configOk c = true) {i : Nat}
    (hi : i < 256) : InS32 (r i) := by
  cases htable : c.sineTable with
  | deployed t =>
    rw [h.eq_entry htable hi, inS32_iff]
    exact toInt_fits _
  | exactSine =>
    obtain ⟨-, -, -, -, -, houtput⟩ := (configOk_iff c).mp hc
    obtain ⟨-, -, hpeak0, hpeak⟩ := (checkOutput_iff c).mp houtput
    replace hpeak0 : (0 : ℝ) ≤ c.peakAmplitude := by exact_mod_cast hpeak0
    replace hpeak : (c.peakAmplitude : ℝ) * 2 ^ 15 < 2 ^ 31 := by exact_mod_cast hpeak
    rw [h.eq_peakSine htable hi]
    refine (peakSine_truncates c.peakAmplitude hi).inS32 ?_
    calc |(c.peakAmplitude : ℝ) * Real.sin (2 * Real.pi * i / 256) * 2 ^ 15|
        = c.peakAmplitude * 2 ^ 15 * |Real.sin (2 * Real.pi * i / 256)| := by
          rw [mul_right_comm, abs_mul, abs_of_nonneg (by positivity)]
      _ ≤ c.peakAmplitude * 2 ^ 15 := mul_le_of_le_one_right (by positivity) (Real.abs_sin_le_one _)
      _ < 2 ^ 31 := hpeak

/-- Every configuration has values of `SINE_TABLE_FN`: those of the exact sine, or the deployed entries. -/
theorem exists_sineValues (c : Cfg) : ∃ r, SineValues c r := by
  unfold SineValues
  cases c.sineTable with
  | exactSine => exact ⟨peakSine c.peakAmplitude, fun i hi => peakSine_truncates _ hi⟩
  | deployed t => exact ⟨fun i => (t.toList.getD i 0).toInt, fun i hi => by simp [hi]⟩

/-! ### BUILD_TABLE (R161, R162) -/

/-- From UNINIT, BUILD_TABLE ends as its loop does. -/
theorem exec_buildTable_of_uninit {s : State} (hl : s.lifecycle = .uninit) :
    exec .buildTable s = s.conclude (orRaise ((fillTable s.cfg (List.range Config.tableSize) s.table).map
      fun m => (s.setTable m).setLifecycle .ready)) := if_neg (not_not.mpr hl)

/-- From UNINIT, a loop that completes leaves its table and READY. -/
theorem exec_buildTable_of_fill {s : State} {m : Memory} (hl : s.lifecycle = .uninit)
    (hm : fillTable s.cfg (List.range Config.tableSize) s.table = .ok m) :
    exec .buildTable s = .next { s with table := m, lifecycle := .ready } := by
  rw [exec_buildTable_of_uninit hl, hm]; rfl

/-- From UNINIT, a fault of the loop is raised, and nothing the loop has written is kept. -/
theorem exec_buildTable_of_fill_error {s : State} {r : Raise} (hl : s.lifecycle = .uninit)
    (hr : fillTable s.cfg (List.range Config.tableSize) s.table = .error r) : exec .buildTable s = .next (s.raise r) := by
  rw [exec_buildTable_of_uninit hl, hr]; rfl

/-- A second BUILD_TABLE. -/
theorem exec_buildTable_of_built {s : State} (hl : s.lifecycle ≠ .uninit) :
    exec .buildTable s = .next (s.faulting .tableRebuild s.lifecycle.info) := if_pos hl

/-- The loop stops at the first index on which `SINE_TABLE_FN` faults. -/
theorem fillTable_first_error {c : Cfg} {k n : Nat} {r : Raise} (m : Memory) (hk : k < n)
    (hok : ∀ i, i < k → ∃ v, sineTableFn c i = .ok v) (hr : sineTableFn c k = .error r) :
    fillTable c (List.range n) m = .error r := by
  obtain ⟨j, rfl⟩ := Nat.exists_eq_add_of_lt hk
  obtain ⟨m', hm'⟩ := fillTable_ok m fun i hi => hok i (List.mem_range.mp hi)
  rw [Nat.add_right_comm, List.range_add, List.range_succ, fillTable_append, fillTable_append, hm']
  simp [fillTable, hr]

/-- If every value is in s32, the loop of BUILD_TABLE completes. -/
theorem fillTable_of_values {c : Cfg} {r : Nat → Int} (m : Memory) (h : SineValues c r) (hr : ∀ i, i < 256 → InS32 (r i)) :
    ∃ m', fillTable c (List.range Config.tableSize) m = .ok m' :=
  fillTable_ok m fun i hi => ⟨r i, sineTableFn_of_inS32 h (List.mem_range.mp hi) (hr i (List.mem_range.mp hi))⟩

/-- Settles O25: the loop visits each of the 256 indexes once, and no other. -/
theorem buildTableBuilds : Obligations.BuildTableBuilds := by
  intro s r hl h hr
  obtain ⟨m, hm⟩ := fillTable_of_values s.table h hr
  refine ⟨m, exec_buildTable_of_fill hl hm, fun i hi => ?_, fun i hi => ?_, fillTable_wf hm fun _ => List.mem_range.mp⟩
  · obtain ⟨v, hv, hread⟩ := fillTable_read hm List.nodup_range (List.mem_range.mpr hi)
    cases (sineTableFn_of_inS32 h hi (hr i hi)).symm.trans hv
    exact hread
  · exact fillTable_read_other hm fun hmem => (List.mem_range.mp hmem).not_ge hi

/-- Settles O26: LIFECYCLE is 1 in READY and 2 in RUNNING. -/
theorem buildTableRebuildRaises : Obligations.BuildTableRebuildRaises := by
  refine fun s => ⟨fun hl => ?_, fun hl => ?_⟩
  · rw [exec_buildTable_of_built (by simp [hl]), hl]; rfl
  · rw [exec_buildTable_of_built (by simp [hl]), hl]; rfl

/-- Settles O27: the loop stops at the first value out of range, whose fault is raised. -/
theorem buildTableFloatRange : Obligations.BuildTableFloatRange := by
  intro s r k hl h hk hbefore hnot
  have hfill := fillTable_first_error s.table (n := Config.tableSize) hk
    (fun i hi => ⟨r i, sineTableFn_of_inS32 h (hi.trans hk) (hbefore i hi)⟩) (sineTableFn_of_not_inS32 h hk hnot)
  refine ⟨sineRangeInfo s.cfg.peakAmplitude k, exec_buildTable_of_fill_error hl hfill, ?_⟩
  rintro rfl
  rfl

/-- Settles O28: no value is out of range, so the loop completes. -/
theorem checkedBuildNeverFaults : Obligations.CheckedBuildNeverFaults := by
  refine ⟨fun c r hc h i hi => h.inS32_of_configOk hc hi, fun s hc hl => ?_⟩
  obtain ⟨r, h⟩ := exists_sineValues s.cfg
  obtain ⟨m, hm⟩ := fillTable_of_values s.table h fun i hi => h.inS32_of_configOk hc hi
  exact ⟨_, exec_buildTable_of_fill hl hm, rfl, rfl⟩

/-- Only the BUILD_TABLE that finds UNINIT writes the table, of the six ways in which an operation answers a next state. -/
theorem exec_keeps_table {i : Instr} {s t : State} (h : exec i s = .next t) (hi : i ≠ .buildTable ∨ s.lifecycle ≠ .uninit) :
    t.table = s.table := by
  rcases exec_next h with ⟨r, -, rfl⟩ | ⟨-, v, rfl⟩ | ⟨hbuild, hl, -⟩ | ⟨-, -, rfl⟩ | ⟨v, -, rfl⟩ | ⟨c, u, -, -, hu, rfl⟩
  · exact State.raise_table r s
  · exact State.respond_table v s
  · exact absurd ⟨hbuild, hl⟩ (not_and_or.mpr hi)
  · exact State.setLifecycle_table .running s
  · exact State.writeTrig_table _ s
  · obtain ⟨-, -, -, htable, -⟩ := smTick_frame hu
    exact htable

/-- Settles O29: the table itself is kept. -/
theorem tableWrittenOnlyByFirstBuild : Obligations.TableWrittenOnlyByFirstBuild :=
  fun i s t h hi k => by rw [exec_keeps_table h hi]

/-! ### The reference table (R166, R167) -/

/-- The table is odd about index 256. -/
theorem refTable_odd : ∀ i, i < 256 → 1 ≤ i → refTable.getD (256 - i) 1 = -refTable.getD i 1 := by decide +kernel

/-- The first half period is even about index 64. -/
theorem refTable_even : ∀ i, i < 65 → refTable.getD (128 - i) 1 = refTable.getD i 1 := by decide +kernel

/-- The exact sine at peak 2047, truncated, is the printed table. -/
theorem sineTableFn_reference : ∀ i, i < 256 → sineTableFn Cfg.reference i = .ok (refTable.getD i 0) := by decide +kernel

/-- Settles O30: beside the symmetries and the sine, the length, four entries, the sum and eight samples of a constant. -/
theorem referenceTableProperties : Obligations.ReferenceTableProperties :=
  ⟨by decide +kernel, by decide +kernel, refTable_odd, refTable_even, by decide +kernel, sineTableFn_reference, by decide +kernel⟩

end Sys2Proof.Machine
end

section
/-! Proofs of the statements of 42_dds_engine.md: the next state of a tone tick and its one fault (R180 to R188), the phase
increment and accumulation (R183, R194), the envelope (R190 to R193), the tag-2 law (R195) and the output range (R196). -/

namespace Sys2Proof.Machine

/-! ### A tone tick, from its parts (R180 to R188) -/

/-- The output sample, where the product fits (R186). -/
theorem outputSample_of_fits (c : Cfg) {amp raw : Int} (h : fitsS32 (sar (amp * raw) 15) = true) :
    outputSample c amp raw = .ok (BitVec.ofInt 16 (sar (sar (amp * raw) 15) 15 + c.dcOffset)) := by
  simp only [outputSample, mul15, mulFx, narrow32_of_fits h]
  rfl

/-- The amplitude after a tone tick at elapsed count `x`, on integers (R187). -/
def envelopeStep (c : Cfg) (e : Effect) (x : Nat) (amp : Int) : Int :=
  if x < c.attackTime then amp + ⌊(c.maxAmplitude : Rat) / c.attackTime⌋
  else if (x : Int) > c.duration e - c.decayTime then amp - ⌊(c.maxAmplitude : Rat) / c.decayTime⌋
  else amp

/-- The envelope answers its step on integers, where that fits (R187). -/
theorem envelope_of_fits {c : Cfg} {e : Effect} {x : Nat} {amp : Int} (hc : configOk c = true)
    (h : fitsS32 (envelopeStep c e x amp) = true) : envelope c e x amp = .ok (envelopeStep c e x amp) := by
  obtain ⟨hattack, hdecay⟩ := increments_of_configOk hc
  unfold envelopeStep at h ⊢
  unfold envelope
  rw [hattack, hdecay]
  by_cases hx : x < c.attackTime
  · rw [if_pos hx] at h
    rw [if_pos hx, if_pos hx, addRamp, one_mul, narrow32_of_fits h]
  · by_cases hd : (x : Int) > c.duration e - c.decayTime
    · rw [if_neg hx, if_pos hd] at h
      rw [if_neg hx, if_pos hd, if_neg hx, if_pos hd, addRamp, neg_one_mul, ← sub_eq_add_neg, narrow32_of_fits h]
    · rw [if_neg hx, if_neg hd, if_neg hx, if_neg hd]

/-- A tone step completes if each of its parts does (R180): the converse of `synthTone_ok`. -/
theorem synthTone_of_parts {t : Tone} {s : State} {raw : Word} {x : Sample} {amp : Int}
    (haudible : audible (toneFreq s t) = true) (hraw : Memory.read s.table (tableIndex (tonePhase s t)) = some raw)
    (hx : outputSample s.cfg s.voice0.amp.toInt raw.toInt = .ok x)
    (hamp : envelope s.cfg (.tone t) s.voice0.elapsed.toNat s.voice0.amp.toInt = .ok amp) :
    synthTone t s = .ok ((s.setVoice0 (toneVoice s t amp)).emit x) := by
  unfold synthTone
  rw [if_neg (by simp [haudible]), hraw]
  simp only [hx, hamp]

/-- A tone step whose law leaves its range raises at once (R182). -/
theorem synthTone_of_inaudible {t : Tone} {s : State} (h : audible (toneFreq s t) = false) :
    synthTone t s = .error (.raised { code := .freqRange, info := .rat (toneFreq s t) }) :=
  if_pos h

/-- The tone arm ends with the completion test (R213). -/
theorem smTick_of_synthTone {s u : State} {t : Tone} (hs : s.voice0.state = .playing (.tone t)) (h : synthTone t s = .ok u) :
    smTick s = .ok (u.complete (.tone t)) := by
  rw [smTick_of_tone hs, toneArm, h]
  rfl

/-- The two ends of a tone tick, after a step that left amplitude `amp` and made sample `x` (R188, R215). -/
theorem complete_toneVoice {s : State} {t : Tone} {amp : Int} (x : Sample) (hc : configOk s.cfg = true)
    (hs : s.voice0.state = .playing (.tone t)) :
    ((s.setVoice0 (toneVoice s t amp)).emit x).complete (.tone t) = { s with
      voice0 := if s.voice0.elapsed.toNat + 1 = s.cfg.duration (.tone t)
        then { state := .idle, phase := tonePhase s t, amp := 0, elapsed := 0 }
        else { state := .playing (.tone t), phase := tonePhase s t, amp := toReg amp,
               elapsed := BitVec.ofNat 32 (s.voice0.elapsed.toNat + 1) },
      trig := if s.voice0.elapsed.toNat + 1 = s.cfg.duration (.tone t) then 0 else s.trig,
      out := s.out ++ [x] } := by
  obtain ⟨hpos, hmax⟩ := duration_of_configOk hc (.tone t)
  have hlast : (s.voice0.elapsed + 1).toNat = s.cfg.duration (.tone t) ↔
      s.voice0.elapsed.toNat + 1 = s.cfg.duration (.tone t) := succ_toNat_eq_iff _ (by omega) hmax
  by_cases h : s.voice0.elapsed.toNat + 1 = s.cfg.duration (.tone t)
  · rw [State.complete_of_eq (hlast.mpr h), if_pos h, if_pos h]
    rfl
  · have hcount : BitVec.ofNat 32 (s.voice0.elapsed.toNat + 1) = s.voice0.elapsed + 1 := by
      rw [BitVec.ofNat_add, BitVec.ofNat_toNat, BitVec.setWidth_eq]
      rfl
    rw [State.complete_of_ne (mt hlast.mp h), if_neg h, if_neg h, hcount, ← hs]
    rfl

/-- Settles O38: the law, the lookup, the multiply and the envelope each complete, so the tick does. -/
theorem toneTick : Obligations.ToneTick := by
  rintro s ctx t raw _ _ _ _ _ hc hctx hl hs rfl rfl hf0 hf1 rfl hraw rfl hp rfl hamp
  rw [← evalLaw_eq] at hf0 hf1 hraw ⊢
  rw [← accumulate_eq] at hraw ⊢
  rw [← tableIndex_eq] at hraw
  rw [floor_eq_sar, inS32_iff] at hp
  rw [floor_eq_sar, floor_eq_sar, ← zextCtx_of_lt hctx]
  have hstep := synthTone_of_parts ((audible_iff _).mpr ⟨hf0, hf1⟩) hraw (outputSample_of_fits s.cfg hp)
    (envelope_of_fits (e := .tone t) hc ((inS32_iff _).mp hamp))
  have htick := smTick_of_synthTone hs hstep
  rw [complete_toneVoice _ hc hs] at htick
  exact execTick_of_smTick ctx hl htick

/-- Settles O39: the range test comes first, and its fault is the tick's. -/
theorem toneTickFrequencyRange : Obligations.ToneTickFrequencyRange := by
  rintro s ctx t _ _ hl hs rfl rfl hf
  rw [← evalLaw_eq] at hf ⊢
  have haudible : audible (toneFreq s t) = false := by
    rw [← Bool.not_eq_true, audible_iff, not_and_or, not_le, not_lt]
    exact hf
  have htick : smTick s = .error (.raised { code := .freqRange, info := .rat (toneFreq s t) }) := by
    rw [smTick_of_tone hs, toneArm, synthTone_of_inaudible haudible]
    rfl
  exact execTick_of_smTick_raised ctx hl htick

/-! ### The phase (R183, R184, R194) -/

/-- A register holds a u32 value without loss (R17). -/
theorem toReg_toNat {v : Int} (h0 : 0 ≤ v) (h1 : v < 2 ^ 32) : ((toReg v).toNat : Int) = v := by
  rw [toReg, BitVec.toNat_ofInt]
  omega

/-- The reference increment in lowest terms: `2^32 / 40000` is `67108864 / 625` (R183). -/
theorem referencePhaseInc_eq (f : Rat) : referencePhaseInc f = toReg ⌊f * 67108864 / 625⌋ := by
  have hscale : f * 2 ^ Config.phaseBits / Config.sampleRate = f * 67108864 / 625 := by
    norm_num [Config.phaseBits, Config.sampleRate]
    ring
  rw [← hscale]
  rfl

/-- Settles O41: below 20000 Hz the quotient is below half the phase range, so the register holds its floor. -/
theorem referencePhaseIncrement : Obligations.ReferencePhaseIncrement := by
  intro c f hc hf0 hf1
  have h0 : 0 ≤ ⌊f * 67108864 / 625⌋ := Int.floor_nonneg.mpr (by positivity)
  have h1 : ⌊f * 67108864 / 625⌋ < 2 ^ 31 := Int.floor_lt.mpr (by push_cast; linarith)
  have hinc : ((phaseInc c f).toNat : Int) = ⌊f * 67108864 / 625⌋ := by
    rw [phaseInc, hc, referencePhaseInc_eq]
    exact toReg_toNat h0 (by omega)
  exact ⟨hinc, by omega⟩

/-- Settles O42: with `2^32 - 1 - k` the sum passes `2^32` by `inc - k - 1`. -/
theorem phaseModularity : Obligations.PhaseModularity := by
  refine ⟨fun p inc => BitVec.toNat_add p inc, fun k inc hk => ?_⟩
  have hinc := inc.isLt
  apply BitVec.eq_of_toNat_eq
  simp only [accumulate, BitVec.toNat_add, BitVec.toNat_ofNat, show (0 : Word).toNat = 0 from rfl]
  omega

/-! ### The envelope (R190 to R193) -/

/-- Settles O43: 0 outside a tone effect, and the planned amplitude in one. -/
theorem amplitudeRange : Obligations.AmplitudeRange := by
  intro s hc hi
  have hmax := (checkAmplitude_iff _).mp ((configOk_iff _).mp hc).2.2.1
  have hzero : s.voice0.amp = 0 → 0 ≤ s.voice0.amp.toInt ∧ s.voice0.amp.toInt ≤ s.cfg.maxAmplitude := by
    intro h
    rw [h, show (0 : Word).toInt = 0 from rfl]
    omega
  rcases hs : s.voice0.state with _ | t | _
  · exact hzero (hi.idle_zero hs).2
  · rw [hi.tone_amp t hs]
    exact plannedAmp_range hc (duration_of_configOk hc _).1 (hi.elapsed_bound _ hs)
  · exact hzero (hi.silent_zero hs)

/-- Settles O44: the invariant's plan counts `min x ATTACK_TIME` attack steps and the steps past `DURATION - DECAY_TIME + 1`. -/
theorem envelopeShape : Obligations.EnvelopeShape := by
  rintro s t _ hc hi hs rfl
  obtain ⟨hramps, -⟩ := duration_of_configOk hc (.tone t)
  rw [hi.tone_amp t hs, plannedAmp_eq hc]
  refine ⟨fun hx => ?_, fun hx hd => ?_, fun hd => ?_⟩
  · rw [Nat.min_eq_left hx, Nat.sub_eq_zero_of_le (by omega)]
    simp
  · rw [Nat.min_eq_right hx, Nat.sub_eq_zero_of_le hd]
    simp
  · rw [Nat.min_eq_right (by omega), Nat.cast_sub hd]
    push_cast [show s.cfg.decayTime ≤ s.cfg.duration (.tone t) by omega]
    rfl

/-! ### The law of tag 2 (R195) -/

/-- The one tone with tag 2 (R45). -/
theorem tone_of_tag_two {t : Tone} (h : (SoundState.playing (.tone t)).tag = 2) : t = .parabolaA := by
  have heffect := effectOfTrig_tag (.tone t)
  rw [h] at heffect
  cases heffect
  rfl

/-- The tag-2 law in decimals (R7). -/
theorem evalLaw_law2 (x : Nat) :
    evalLaw Config.law2 x = -0.00099853142804 * (x : Rat) ^ 2 + 1.99456285608 * x + 1010 := by
  rw [evalLaw_eq]
  norm_num [Config.law2, Rat.mkRat_eq_div]

/-- Up to 2416 the law is at least the line through its values at 0 and 2416, which is positive there, and at most its linear part,
which is below 20000. -/
theorem law2_inRange {x : Nat} (hx : x ≤ 2416) : 0 ≤ evalLaw Config.law2 x ∧ evalLaw Config.law2 x < 20000 := by
  have hle : (x : Rat) ≤ 2416 := by exact_mod_cast hx
  have hsq : (x : Rat) ^ 2 ≤ 2416 * x := by rw [sq]; exact mul_le_mul_of_nonneg_right hle x.cast_nonneg
  have hsq0 : (0 : Rat) ≤ (x : Rat) ^ 2 := sq_nonneg _
  rw [evalLaw_law2]
  constructor <;> linarith

/-- From 2417 on the law is at most the line through its values at 0 and 2417, which is negative there. -/
theorem law2_neg {x : Nat} (hx : 2417 ≤ x) : evalLaw Config.law2 x < 0 := by
  have hle : (2417 : Rat) ≤ x := by exact_mod_cast hx
  have hsq : 2417 * (x : Rat) ≤ (x : Rat) ^ 2 := by rw [sq]; exact mul_le_mul_of_nonneg_right hle x.cast_nonneg
  rw [evalLaw_law2]
  linarith

/-- Settles O45: the one tone with tag 2 has the fixed law in every configuration. -/
theorem tagTwoLawRange : Obligations.TagTwoLawRange := by
  intro c t ht
  cases tone_of_tag_two ht
  refine ⟨?_, ?_, fun x => law2_inRange, fun x => law2_neg⟩
  · exact (evalLaw_law2 0).trans (by norm_num)
  · exact (evalLaw_law2 2000).trans (by norm_num)

/-! ### The output range (R196) -/

/-- Every entry of the reference table lies in [-2047, 2047] in fix15 (R166). -/
theorem refTable_bounds : ∀ i, i < 256 → -(2047 * 2 ^ 15) ≤ refTable.getD i 0 ∧ refTable.getD i 0 ≤ 2047 * 2 ^ 15 := by
  decide +kernel

/-- A product by an amplitude in [0, 1] keeps a symmetric range (R122, R193). -/
theorem sar_mul_bounds {amp raw m : Int} (h0 : 0 ≤ amp) (h1 : amp ≤ 2 ^ 15) (hlo : -m ≤ raw) (hhi : raw ≤ m) :
    -m ≤ sar (amp * raw) 15 ∧ sar (amp * raw) 15 ≤ m := by
  have hm : 0 ≤ m := by omega
  have hamp : amp * m ≤ 2 ^ 15 * m := mul_le_mul_of_nonneg_right h1 hm
  have hup : amp * raw ≤ amp * m := mul_le_mul_of_nonneg_left hhi h0
  have hdown : amp * -m ≤ amp * raw := mul_le_mul_of_nonneg_left hlo h0
  rw [mul_neg] at hdown
  unfold sar
  omega

/-- Settles O46: the product lies in [-2047, 2047] in fix15, so its integer part does, and the offset moves that to [1, 4095]. -/
theorem referenceOutputRange : Obligations.ReferenceOutputRange := by
  intro c amp i hdc h0 h1 hi
  obtain ⟨hlo, hhi⟩ := refTable_bounds i hi
  obtain ⟨plo, phi⟩ := sar_mul_bounds h0 h1 hlo hhi
  have hfits : fitsS32 (sar (amp * refTable.getD i 0) 15) = true := (fitsS32_iff _).mpr (by omega)
  refine ⟨by rw [quietSample, hdc]; rfl, _, outputSample_of_fits c hfits, ?_⟩
  generalize sar (amp * refTable.getD i 0) 15 = p at plo phi
  rw [hdc, BitVec.toNat_ofInt, sar]
  omega

end Sys2Proof.Machine
end

section
/-! Proofs of the statements of 43_sound_state_machine.md: the Trigger Flag (R217, R218), a TICK in IDLE and in the silent effect
(R212, R214, R215), no retriggering (R216), and the latency and the timeline of an effect (R220, R221). -/

namespace Sys2Proof.Machine

/-! ### The Trigger Flag (R217, R218) -/

/-- No collision: the flag is free, it is being cleared, or it is written with the value it holds. -/
theorem collides_eq_false_iff {old v : Byte} : collides old v = false ↔ old = 0 ∨ v = 0 ∨ old = v := by
  simp only [collides, decide_eq_false_iff_not, not_and_or, not_not]

/-- On a collision the draw chooses between the two values, and the next draw is another (R218). -/
theorem State.writeTrig_of_collides {v : Byte} {s : State} (h : collides s.trig v = true) :
    s.writeTrig v =
      { s with trig := if Config.collisionKeepsOld s.draws then s.trig else v, draws := s.draws + 1 } :=
  if_pos h

/-- Settles O31: in each of the three cases nothing collides. -/
theorem writeTriggerStores : Obligations.WriteTriggerStores := by
  intro s v _ h
  have hfree : collides s.trig (trigImm v) = false :=
    collides_eq_false_iff.mpr (h.imp_right (Or.imp_left fun hv => congrArg (BitVec.ofNat 8) hv))
  exact congrArg Host.Outcome.next (State.writeTrig_of_not_collides hfree)

/-- Settles O32: an 8-bit number other than 0 is another value of the flag than 0, so the values collide. -/
theorem writeTriggerCollision : Obligations.WriteTriggerCollision := by
  intro s v hv hs hv0 hne
  have himm : BitVec.ofNat 8 v ≠ 0 := by bv_omega
  have hcollides : collides s.trig (trigImm v) = true := decide_eq_true ⟨hs, himm, hne⟩
  exact ⟨_, ite_eq_or_eq .., congrArg Host.Outcome.next (State.writeTrig_of_collides hcollides)⟩

/-! ### A TICK in IDLE (R212, R221) -/

/-- A TICK in IDLE runs the IDLE arm, which never faults. -/
theorem exec_tick_idle {s : State} (ctx : Nat) (hl : s.lifecycle = .running) (hs : s.voice0.state = .idle) :
    exec (.tick ctx) s = .next ((idleArm s).setLastCtx (zextCtx ctx)) :=
  execTick_of_smTick ctx hl (smTick_of_idle hs)

/-- The IDLE arm enters the effect whose tag TRIG holds. -/
theorem idleArm_of_tag {s : State} {e : Effect} (h : s.trig = (SoundState.playing e).tag) :
    idleArm s = (s.enterEffect e).quietEmit := by
  have he : effectOfTrig s.trig = some e := by rw [h, effectOfTrig_tag]
  rw [idleArm, State.consumeTrigger_some he]

/-- Settles O36: the arm consumes a trigger that is a tag, leaves any other, and then emits. -/
theorem idleTick : Obligations.IdleTick := by
  intro s ctx hctx hl hs
  rw [exec_tick_idle ctx hl hs, zextCtx_of_lt hctx]
  refine ⟨fun e he => ?_, fun hnone => ?_⟩
  · rw [idleArm_of_tag he, State.quietEmit_eq]
    rfl
  · rw [idleArm, State.consumeTrigger_none (effectOfTrig_none_of hnone), State.quietEmit_eq]
    rfl

/-- Settles O49: the write finds the flag free and stores the tag, and the IDLE arm enters its effect. -/
theorem triggerLatency : Obligations.TriggerLatency := by
  intro s e ctx hl hs htrig
  have htag : BitVec.ofNat 8 (SoundState.playing e).tag.toNat = (SoundState.playing e).tag := by simp
  have hwrite := writeTriggerStores s (SoundState.playing e).tag.toNat (BitVec.isLt _) (.inl htrig)
  rw [htag] at hwrite
  refine ⟨_, _, hwrite, exec_tick_idle ctx hl hs, ?_⟩
  rw [idleArm_of_tag (e := e) rfl]
  simp

/-! ### A TICK in the silent effect (R214, R215) -/

/-- Settles O37: the count is tested after it is increased, and in a checked configuration it does not wrap. -/
theorem silentTick : Obligations.SilentTick := by
  intro s ctx hc hctx hl hs
  obtain ⟨hpos, hmax⟩ := duration_of_configOk hc .silent
  have hlast : (s.voice0.elapsed + 1).toNat = s.cfg.duration .silent ↔
      s.voice0.elapsed.toNat + 1 = s.cfg.duration .silent := succ_toNat_eq_iff _ (by omega) hmax
  have htick : exec (.tick ctx) s = .next ((silentArm s).setLastCtx (zextCtx ctx)) :=
    execTick_of_smTick ctx hl (smTick_of_silent hs)
  rw [htick, zextCtx_of_lt hctx, silentArm, State.quietEmit_eq]
  by_cases h : s.voice0.elapsed.toNat + 1 = s.cfg.duration .silent
  · rw [State.complete_of_eq (hlast.mpr h), if_pos h, if_pos h]
    rfl
  · rw [State.complete_of_ne (mt hlast.mp h), if_neg h, if_neg h]
    rfl

/-! ### No retriggering (R216) -/

/-- The completion test does not read TRIG, which keeps its value or is cleared. -/
theorem State.complete_setTrig (v : Byte) (e : Effect) (s : State) :
    ∃ w, (w = v ∨ w = 0) ∧ (s.setTrig v).complete e = (s.complete e).setTrig w := by
  rcases State.complete_cases s e with ⟨heq, hu⟩ | ⟨hne, hu⟩
  · exact ⟨0, .inr rfl, by rw [hu, State.complete_of_eq (s := s.setTrig v) heq]; rfl⟩
  · exact ⟨v, .inl rfl, by rw [hu, State.complete_of_ne (s := s.setTrig v) hne]⟩

@[simp] theorem tonePhase_setTrig (v : Byte) (s : State) (t : Tone) : tonePhase (s.setTrig v) t = tonePhase s t := rfl

/-- The tone step does not read TRIG: it takes the same branch whatever the flag holds, and keeps it. -/
theorem synthTone_setTrig (v : Byte) (t : Tone) (s : State) :
    synthTone t (s.setTrig v) = (synthTone t s).map (State.setTrig v) := by
  unfold synthTone
  by_cases hf : audible (toneFreq s t) = false
  · rw [if_pos hf, if_pos (show audible (toneFreq (s.setTrig v) t) = false from hf)]
    rfl
  · rw [if_neg hf, if_neg (show ¬ audible (toneFreq (s.setTrig v) t) = false from hf)]
    simp only [tonePhase_setTrig, State.setTrig_table, State.setTrig_cfg, State.setTrig_voice0]
    split
    · rfl
    · split
      · rfl
      · split
        · rfl
        · rfl

/-- While an effect plays, a tick of the state machine does not read TRIG, and keeps it or clears it. -/
theorem smTick_setTrig {s : State} (v : Byte) (hs : s.voice0.state ≠ .idle) :
    ∃ w, (w = v ∨ w = 0) ∧ smTick (s.setTrig v) = (smTick s).map (State.setTrig w) := by
  rcases he : s.voice0.state with _ | t | _
  · exact absurd he hs
  · rw [smTick_of_tone he, smTick_of_tone (s := s.setTrig v) he, toneArm, toneArm, synthTone_setTrig]
    cases synthTone t s with
    | error e => exact ⟨v, .inl rfl, rfl⟩
    | ok u =>
      obtain ⟨w, hw, hu⟩ := State.complete_setTrig v (.tone t) u
      exact ⟨w, hw, congrArg Except.ok hu⟩
  · rw [smTick_of_silent he, smTick_of_silent (s := s.setTrig v) he]
    obtain ⟨w, hw, hu⟩ := State.complete_setTrig v .silent s.quietEmit.countSample
    refine ⟨w, hw, congrArg Except.ok (Eq.trans ?_ hu)⟩
    simp only [silentArm, State.quietEmit_eq]
    rfl

/-- Settles O47: a TICK that faults keeps TRIG, and so does one that completes, unless it ends the effect. -/
theorem noRetriggering : Obligations.NoRetriggering := by
  intro s t ctx v hs h
  obtain ⟨w, hw, hsame⟩ := smTick_setTrig v hs
  rcases execTick_next h with ⟨hl, rfl⟩ | ⟨hl, r, hr, rfl⟩ | ⟨hl, u, hu, rfl⟩
  · exact ⟨_, execTick_not_running (s := s.setTrig v) ctx hl, rfl, .inl rfl⟩
  · rw [hr] at hsame
    exact ⟨_, execTick_of_smTick_raised (s := s.setTrig v) ctx hl hsame, rfl, .inl rfl⟩
  · rw [hu] at hsame
    exact ⟨_, execTick_of_smTick (s := s.setTrig v) ctx hl hsame, rfl, hw⟩

/-! ### Runs in RUNNING without a fault (R220) -/

/-- A state of a run under the checked configuration `c`, armed and unfaulted. -/
structure Armed (c : Cfg) (s : State) : Prop where
  cfg_eq    : s.cfg = c
  cfg_ok    : configOk s.cfg = true
  inv       : s.Inv
  unfaulted : s.Unfaulted
  running   : s.lifecycle = .running

/-- The next element taken, and not performed yet. -/
theorem Armed.accept {c : Cfg} {s : State} (h : Armed c s) (x : Issue) (rest : List Issue) : Armed c (s.accept x rest) :=
  { h with inv := { h.inv with } }

/-- A step that performs an operation without a fault leaves such a state: RUNNING is never left (R39). -/
theorem Armed.step_of_exec {c : Cfg} {s t : State} {x : Issue} {rest : List Issue} {i : Instr} (h : Armed c s)
    (hp : s.pending = x :: rest) (hd : decode x.word = .ok i) (ha : x.agent = i.agent)
    (ht : exec i (s.accept x rest) = .next t) (hf : t.Unfaulted) :
    step s = .next t ∧ Armed c t ∧ t.pending = rest := by
  have hstep := (step_legal h.cfg_ok h.unfaulted hp hd ha).trans ht
  obtain ⟨-, hcfg, -, hpending⟩ := exec_keeps_inert ht
  have hrunning : t.lifecycle = .running := by
    rcases lifecycleMovesForward _ _ _ ht with hkeep | ⟨-, hl, -⟩ | ⟨-, hl, -⟩
    · exact hkeep.trans h.running
    · exact absurd (h.running.symm.trans hl) nofun
    · exact absurd (h.running.symm.trans hl) nofun
  exact ⟨hstep, ⟨hcfg.trans h.cfg_eq, hcfg ▸ h.cfg_ok, stepKeepsInvariant s t h.inv hstep, hf, hrunning⟩, hpending⟩

/-- The step of a TICK whose tick of the state machine completes with `u`. -/
theorem Armed.step_tick {c : Cfg} {s u : State} {x : Issue} {rest : List Issue} (h : Armed c s)
    (hp : s.pending = x :: rest) (hx : IsTick x) (hu : smTick (s.accept x rest) = .ok u) :
    ∃ t, step s = .next t ∧ Armed c t ∧ t.pending = rest ∧ t.voice0 = u.voice0 ∧ t.trig = u.trig := by
  obtain ⟨ctx, p, hctx, rfl⟩ := hx
  obtain ⟨-, -, -, -, hfault, -⟩ := smTick_frame hu
  obtain ⟨hstep, harmed, hpending⟩ := h.step_of_exec hp (decode_tick hctx) rfl (execTick_of_smTick ctx h.running hu)
    (hfault.trans h.unfaulted)
  exact ⟨_, hstep, harmed, hpending, rfl, rfl⟩

/-! ### The ticks of an effect (R220) -/

/-- Effect `e` plays, with `n` of its ticks done. -/
structure Plays (c : Cfg) (e : Effect) (n : Nat) (s : State) : Prop extends Armed c s where
  state_eq   : s.voice0.state = .playing e
  elapsed_eq : s.voice0.elapsed.toNat = n

/-- A completed tick of the state machine in effect `e` has counted a sample and then tested for completion (R213, R214). -/
theorem smTick_playing_ok {s u : State} {e : Effect} (hs : s.voice0.state = .playing e) (hu : smTick s = .ok u) :
    ∃ w : State, u = w.complete e ∧ w.cfg = s.cfg ∧ w.voice0.state = .playing e ∧
      w.voice0.elapsed = s.voice0.elapsed + 1 := by
  rcases smTick_ok hu with ⟨hidle, -⟩ | ⟨hsilent, rfl⟩ | ⟨t, w, htone, hw, rfl⟩
  · exact absurd (hs.symm.trans hidle) nofun
  · cases hs.symm.trans hsilent
    exact ⟨s.quietEmit.countSample, rfl, by simp, by simp [hs], by simp⟩
  · cases hs.symm.trans htone
    obtain ⟨-, raw, x, amp, -, -, -, rfl⟩ := synthTone_ok hw
    exact ⟨_, rfl, rfl, hs, rfl⟩

/-- A tick of the state machine completes in an effect whose law stays in range (R182). -/
theorem smTick_completes_of_lawInRange {c : Cfg} {s : State} {e : Effect} (h : Armed c s)
    (hs : s.voice0.state = .playing e) (hlaw : LawInRange c e) : ∃ u, smTick s = .ok u := by
  rcases smTick_completes_or_inaudible h.cfg_ok h.inv h.running with hu | ⟨tone, htone, hinaudible, -⟩
  · exact hu
  · cases hs.symm.trans htone
    rw [← h.cfg_eq] at hlaw
    have haudible := hlaw s.voice0.elapsed.toNat (h.inv.elapsed_bound _ hs)
    exact absurd (haudible.symm.trans hinaudible) nofun

/-- The first TICK enters the effect that TRIG requests (R212). -/
theorem Armed.step_enters {c : Cfg} {e : Effect} {s : State} {x : Issue} {rest : List Issue} (h : Armed c s)
    (hs : s.voice0.state = .idle) (htrig : s.trig = (SoundState.playing e).tag) (hp : s.pending = x :: rest)
    (hx : IsTick x) : ∃ t, step s = .next t ∧ Plays c e 0 t ∧ t.pending = rest := by
  obtain ⟨t, hstep, harmed, hpending, hvoice, -⟩ := h.step_tick hp hx (smTick_of_idle hs)
  rw [idleArm_of_tag (s := s.accept x rest) htrig, State.quietEmit_voice0, State.enterEffect_voice0] at hvoice
  exact ⟨t, hstep, ⟨harmed, by rw [hvoice], by rw [hvoice]; rfl⟩, hpending⟩

/-- A TICK in the effect is counted, and the one that makes the count the duration returns to IDLE (R215). -/
theorem Plays.step_tick {c : Cfg} {e : Effect} {n : Nat} {s : State} {x : Issue} {rest : List Issue} (h : Plays c e n s)
    (hlaw : LawInRange c e) (hp : s.pending = x :: rest) (hx : IsTick x) :
    ∃ t, step s = .next t ∧ t.pending = rest ∧ (n + 1 < c.duration e → Plays c e (n + 1) t) ∧
      (n + 1 = c.duration e → t.Unfaulted ∧ t.voice0.state = .idle ∧ t.voice0.elapsed = 0 ∧ t.voice0.amp = 0 ∧
        t.trig = 0) := by
  obtain ⟨u, hu⟩ := smTick_completes_of_lawInRange (h.accept x rest) h.state_eq hlaw
  obtain ⟨t, hstep, harmed, hpending, hvoice, htrig⟩ := h.toArmed.step_tick hp hx hu
  obtain ⟨w, rfl, hcfg, hstate, hcount⟩ := smTick_playing_ok (s := s.accept x rest) h.state_eq hu
  have hn : n < c.duration e := by
    rw [← h.elapsed_eq, ← h.cfg_eq]
    exact h.inv.elapsed_bound e h.state_eq
  have hmax : c.duration e ≤ 2 ^ 32 - 1 := h.cfg_eq ▸ (duration_of_configOk h.cfg_ok e).2
  have hwcfg : w.cfg = c := hcfg.trans h.cfg_eq
  have hw : w.voice0.elapsed.toNat = n + 1 := by
    rw [hcount]
    exact (succ_toNat_eq_iff _ n.succ_pos (by omega)).mpr (congrArg Nat.succ h.elapsed_eq)
  refine ⟨t, hstep, hpending, fun hlt => ?_, fun heq => ?_⟩
  · rw [State.complete_of_ne (by rw [hw, hwcfg]; omega)] at hvoice
    exact ⟨harmed, by rw [hvoice, hstate], by rw [hvoice, hw]⟩
  · rw [State.complete_of_eq (by rw [hw, hwcfg, heq])] at hvoice htrig
    exact ⟨harmed.unfaulted, by rw [hvoice]; rfl, by rw [hvoice]; rfl, by rw [hvoice]; rfl, htrig⟩

/-- A host operation that does not fault is no tick of the effect (R222). -/
theorem Plays.step_host {c : Cfg} {e : Effect} {n : Nat} {s : State} {x : Issue} {rest : List Issue} (h : Plays c e n s)
    (hp : s.pending = x :: rest) (hx : HostCompletes c x) :
    ∃ t, step s = .next t ∧ t.pending = rest ∧ Plays c e n t := by
  obtain ⟨hagent, i, hd, hi, hcompletes⟩ := hx
  obtain ⟨t, ht, hf⟩ := hcompletes (s.accept x rest) h.cfg_eq rfl h.running h.unfaulted
  obtain ⟨hstep, harmed, hpending⟩ := h.step_of_exec hp hd (hagent.trans hi.symm) ht hf
  obtain ⟨hvoice, -, -⟩ := exec_keeps_voice0_out_lastCtx ht (by rintro ctx rfl; cases hi)
  exact ⟨t, hstep, hpending, harmed, hvoice ▸ h.state_eq, hvoice ▸ h.elapsed_eq⟩

/-! ### The timeline of an effect (R220) -/

/-- The operation code of a decoded word says whether it is a TICK. -/
theorem isTickWord_of_decode {x : Issue} {i : Instr} (h : decode x.word = .ok i) :
    isTickWord x = decide (i.agent = .timer) := by
  rw [isTickWord, ← decode_opcode h, agent_opcode]
  by_cases ho : i.opcode = 3
  · simp [ho]
  · simp [ho]

theorem tickCount_cons_tick {x : Issue} (l : List Issue) (hx : IsTick x) : tickCount (x :: l) = tickCount l + 1 := by
  obtain ⟨ctx, p, hctx, rfl⟩ := hx
  have htick : isTickWord (tickIssue ctx p) = true := isTickWord_of_decode (x := tickIssue ctx p) (decode_tick hctx)
  rw [tickCount, List.filter_cons_of_pos htick]
  rfl

theorem tickCount_cons_host {c : Cfg} {x : Issue} (l : List Issue) (hx : HostCompletes c x) :
    tickCount (x :: l) = tickCount l := by
  obtain ⟨-, i, hd, hi, -⟩ := hx
  have hhost : isTickWord x = false := by rw [isTickWord_of_decode hd, hi]; rfl
  rw [tickCount, List.filter_cons_of_neg (by simp [hhost])]
  rfl

/-- While an effect plays, a run that does not reach its duration adds its TICKs to the count. -/
theorem Plays.run {c : Cfg} {e : Effect} {n : Nat} {s : State} {l rest : List Issue} (h : Plays c e n s)
    (hlaw : LawInRange c e) (hp : s.pending = l ++ rest) (hl : ∀ x ∈ l, IsTick x ∨ HostCompletes c x)
    (hn : n + tickCount l < c.duration e) :
    ∃ t, Sys2Proof.core.run l.length s = .next t ∧ Plays c e (n + tickCount l) t ∧ t.pending = rest := by
  induction l generalizing n s with
  | nil => exact ⟨s, rfl, h, hp⟩
  | cons x l ih =>
    have hl' : ∀ y ∈ l, IsTick y ∨ HostCompletes c y := fun y hy => hl y (List.mem_cons_of_mem x hy)
    rcases hl x List.mem_cons_self with hx | hx
    · rw [tickCount_cons_tick l hx, ← Nat.succ_add_eq_add_succ] at hn ⊢
      obtain ⟨t, hstep, hpending, ht, -⟩ := h.step_tick hlaw hp hx
      rw [List.length_cons, run_succ_of_next _ hstep]
      exact ih (ht (by omega)) hpending hl' hn
    · rw [tickCount_cons_host l hx] at hn ⊢
      obtain ⟨t, hstep, hpending, ht⟩ := h.step_host hp hx
      rw [List.length_cons, run_succ_of_next _ hstep]
      exact ih ht hpending hl' hn

/-- A run that begins with the TICK that enters the effect, up to the elements `rest`. -/
theorem Armed.run_enters {c : Cfg} {e : Effect} {s : State} {first : Issue} {l rest : List Issue} (h : Armed c s)
    (hs : s.voice0.state = .idle) (htrig : s.trig = (SoundState.playing e).tag) (hlaw : LawInRange c e)
    (hfirst : IsTick first) (hp : s.pending = first :: (l ++ rest)) (hl : ∀ x ∈ l, IsTick x ∨ HostCompletes c x)
    (hn : tickCount l < c.duration e) :
    ∃ t, Sys2Proof.core.run (l.length + 1) s = .next t ∧ Plays c e (tickCount l) t ∧ t.pending = rest := by
  obtain ⟨t, hstep, hplays, hpending⟩ := h.step_enters hs htrig hp hfirst
  rw [run_succ_of_next _ hstep]
  simpa using hplays.run hlaw hpending hl (by simpa using hn)

/-- The start of a run: the elements are pending, and nothing else has changed (R6). -/
theorem armed_start {s : State} (l : List Issue) (hc : configOk s.cfg = true) (hi : s.Inv) (hf : s.Unfaulted)
    (hr : s.lifecycle = .running) : Armed s.cfg { s with pending := l } :=
  ⟨rfl, hc, { hi with }, hf, hr⟩

/-- Settles O58: the first TICK enters the effect with count 0, and the run then adds its TICKs. -/
theorem effectTimeline : Obligations.EffectTimeline := by
  rintro s e first l _ hc hi hf hr hs htrig hlaw hfirst hl rfl hj
  obtain ⟨t, hrun, hplays, -⟩ := (armed_start (first :: l) hc hi hf hr).run_enters (rest := []) hs htrig hlaw hfirst
    (by rw [List.append_nil]) hl hj
  exact ⟨t, hrun, hplays.unfaulted, hplays.state_eq, hplays.elapsed_eq⟩

/-- Settles O59: the run up to the last TICK leaves the count one short of the duration, and that TICK returns to IDLE. -/
theorem effectReturnsAtDuration : Obligations.EffectReturnsAtDuration := by
  intro s e first last l hc hi hf hr hs htrig hlaw hfirst hlast hl hd
  obtain ⟨t, hrun, hplays, hpending⟩ := (armed_start (first :: (l ++ [last])) hc hi hf hr).run_enters hs htrig hlaw
    hfirst rfl hl (by omega)
  obtain ⟨u, hstep, -, -, hreturn⟩ := hplays.step_tick hlaw hpending hlast
  refine ⟨u, ?_, hreturn hd⟩
  rw [State.run, List.length_cons, List.length_append, List.length_singleton, Nat.add_right_comm, run_add_of_next 1 hrun,
    run_succ_of_next 0 hstep]
  rfl

end Sys2Proof.Machine
end

section
/-! Proofs of the statements of 44_scheduler.md: START_TIMER in each lifecycle phase (R241), a TICK before the timer is armed (R242),
and READ_DIAG (R243). -/

namespace Sys2Proof.Machine

/-! ### START_TIMER (R241) -/

/-- From READY, START_TIMER arms the timer. -/
theorem exec_startTimer_of_ready {s : State} (hl : s.lifecycle = .ready) :
    exec .startTimer s = .next (s.setLifecycle .running) := by
  simp only [exec, execStartTimer, hl, State.conclude_ok]

/-- Before the table is built, START_TIMER raises. -/
theorem exec_startTimer_of_uninit {s : State} (hl : s.lifecycle = .uninit) :
    exec .startTimer s = .next (s.faulting .notReady (Lifecycle.info .uninit)) := by
  simp only [exec, execStartTimer, hl, State.conclude_raised]
  rfl

/-- A second START_TIMER. -/
theorem exec_startTimer_of_running {s : State} (hl : s.lifecycle = .running) :
    exec .startTimer s = .next (s.faulting .timerRearm (Lifecycle.info .running)) := by
  simp only [exec, execStartTimer, hl, State.conclude_raised]
  rfl

/-- Settles O33: LIFECYCLE is 0 in UNINIT and 2 in RUNNING. -/
theorem startTimerArms : Obligations.StartTimerArms :=
  fun _ => ⟨exec_startTimer_of_ready, exec_startTimer_of_uninit, exec_startTimer_of_running⟩

/-! ### READ_DIAG (R243) -/

/-- Settles O34: READ_DIAG's response is a value and no fault, so it is appended and nothing is raised. -/
theorem readDiagResponds : Obligations.ReadDiagResponds :=
  fun s => State.respondWith_ok s (.int s.lastCtx.toNat)

/-! ### A TICK before the timer is armed (R242) -/

/-- A TICK outside RUNNING raises with LIFECYCLE as info, whatever its context id. -/
theorem exec_tick_of_not_running {s : State} (ctx : Nat) (hl : s.lifecycle ≠ .running) :
    exec (.tick ctx) s = .next (s.faulting .timerNotArmed s.lifecycle.info) := execTick_not_running ctx hl

/-- Settles O35: LIFECYCLE is 0 in UNINIT and 1 in READY. -/
theorem tickNotArmedRaises : Obligations.TickNotArmedRaises := by
  refine fun s ctx => ⟨fun hl => ?_, fun hl => ?_⟩
  · rw [exec_tick_of_not_running ctx (by simp [hl]), hl]; rfl
  · rw [exec_tick_of_not_running ctx (by simp [hl]), hl]; rfl

end Sys2Proof.Machine
end

section
/-! Proofs of the statements of 60_exceptions.md: the fault codes' numbers (R261), which operation raises which of them (R263), no
step from a faulted state (R262), and the context id of a TICK (R275). -/

namespace Sys2Proof.Machine

/-- Settles O12: each number is the code's row of R261. -/
theorem faultCodeNumbers : Obligations.FaultCodeNumbers := ⟨rfl, rfl⟩

/-! ### No step from a faulted state (R262) -/

/-- In a checked configuration, the step of a faulted state names the fault. -/
theorem step_of_faulted {s : State} (hc : configOk s.cfg = true) (hf : s.fault ≠ .none) :
    step s = .fault (.faulted s.fault) := by
  have hfetch : fetch s = .stop (.fault (.faulted s.fault)) := by
    unfold fetch
    rw [if_neg (by simp [hc]), if_pos hf]
  unfold step
  rw [hfetch]

/-- Settles O8: a step that answers a next state began unfaulted. -/
theorem faultedStateHasNoStep : Obligations.FaultedStateHasNoStep := by
  refine fun s hf => ⟨fun t h => ?_, fun hc => step_of_faulted hc hf⟩
  obtain ⟨-, hnone, -⟩ := step_next h
  exact hf hnone

/-! ### Which operation raises which fault (R263) -/

/-- Fault `code` is one that R263 lists for operation `i`, and FX_OVERFLOW only under the fault policy (R19). -/
def MayRaise (i : Instr) (p : OverflowPolicy) (code : FaultCode) : Prop :=
  code ∈ faultsOf i ∧ (code = .fxOverflow → p = .fault)

/-- The output multiply faults only by narrowing (R186). -/
theorem outputSample_error {c : Cfg} {amp raw : Int} {r : Raise} (h : outputSample c amp raw = .error r) :
    r.code = .fxOverflow ∧ c.overflowPolicy = .fault := by
  unfold outputSample at h
  cases hm : mul15 c.overflowPolicy amp raw with
  | ok v => rw [hm] at h; cases h
  | error e => rw [hm] at h; cases h; exact narrow32_error_code hm

/-- The increments of a checked configuration do not fault (R8), so its envelope faults only by narrowing the sum (R187). -/
theorem envelope_error_of_configOk {c : Cfg} {e : Effect} {x : Nat} {amp : Int} {r : Raise} (hc : configOk c = true)
    (h : envelope c e x amp = .error r) : r.code = .fxOverflow ∧ c.overflowPolicy = .fault := by
  obtain ⟨hattack, hdecay⟩ := increments_of_configOk hc
  unfold envelope at h
  rw [hattack, hdecay] at h
  split at h
  · exact narrow32_error_code h
  · split at h
    · exact narrow32_error_code h
    · cases h

/-- Where a tone step raises: at the frequency's range, in the output multiply, or in the envelope (R180). -/
theorem synthTone_raised_cases {t : Tone} {s : State} {r : Raise} (h : synthTone t s = .error (.raised r)) :
    r.code = .freqRange ∨
    (∃ raw, outputSample s.cfg s.voice0.amp.toInt raw = .error r) ∨
    envelope s.cfg (.tone t) s.voice0.elapsed.toNat s.voice0.amp.toInt = .error r := by
  unfold synthTone at h
  split at h
  · cases h; exact .inl rfl
  · split at h
    · cases h
    · next raw _ =>
      split at h
      · next hout => cases h; exact .inr (.inl ⟨raw.toInt, hout⟩)
      · split at h
        · next henv => cases h; exact .inr (.inr henv)
        · cases h

/-- Under a checked configuration, a tick of the state machine raises faults that R263 lists for TICK. -/
theorem smTick_mayRaise {s : State} {r : Raise} (ctx : Nat) (hc : configOk s.cfg = true)
    (h : smTick s = .error (.raised r)) : MayRaise (.tick ctx) s.cfg.overflowPolicy r.code := by
  have overflow (hr : r.code = .fxOverflow ∧ s.cfg.overflowPolicy = .fault) :
      MayRaise (.tick ctx) s.cfg.overflowPolicy r.code := ⟨by simp [faultsOf, hr.1], fun _ => hr.2⟩
  obtain ⟨t, -, ht⟩ := smTick_raised h
  rcases synthTone_raised_cases ht with hfreq | ⟨raw, hout⟩ | henv
  · exact ⟨by simp [faultsOf, hfreq], by simp [hfreq]⟩
  · exact overflow (outputSample_error hout)
  · exact overflow (envelope_error_of_configOk hc henv)

/-- An operation that answers a next state keeps FAULT or leaves in it one of the faults of its rule. -/
theorem exec_keeps_fault_or_mayRaise {i : Instr} {s t : State} (hc : configOk s.cfg = true) (h : exec i s = .next t) :
    t.fault = s.fault ∨ MayRaise i s.cfg.overflowPolicy t.fault := by
  by_cases hi : i ∈ responders
  · rcases exec_responder hi s with ⟨v, hv⟩ | ⟨r, hr, hlisted⟩
    · cases hv.symm.trans h
      exact .inl (State.respond_fault v s)
    · cases hr.symm.trans h
      exact .inr hlisted
  · cases i <;> simp [responders] at hi
    case buildTable =>
      rcases exec_buildTable_next h with ⟨-, rfl⟩ | ⟨-, r, hr, rfl⟩ | ⟨-, m, -, rfl⟩
      · exact .inr ⟨by simp [faultsOf], by simp⟩
      · exact .inr ⟨by simp [faultsOf, hr], by simp [hr]⟩
      · exact .inl rfl
    case startTimer =>
      rcases exec_startTimer_next h with ⟨-, rfl⟩ | ⟨-, rfl⟩ | ⟨-, rfl⟩
      · exact .inr ⟨by simp [faultsOf], by simp⟩
      · exact .inr ⟨by simp [faultsOf], by simp⟩
      · exact .inl rfl
    case writeTrigger v =>
      cases h
      exact .inl (State.writeTrig_fault _ s)
    case tick ctx =>
      rcases execTick_next h with ⟨-, rfl⟩ | ⟨-, r, hr, rfl⟩ | ⟨-, u, hu, rfl⟩
      · exact .inr ⟨by simp [faultsOf], by simp⟩
      · exact .inr (smTick_mayRaise ctx hc hr)
      · obtain ⟨-, -, -, -, hfault, -⟩ := smTick_frame hu
        exact .inl hfault

/-- Settles O11: a fault that an unfaulted state did not hold is one of the operation's rule. -/
theorem whichOperationRaisesWhat : Obligations.WhichOperationRaisesWhat := by
  intro i s t hc hs h ht
  rcases exec_keeps_fault_or_mayRaise hc h with hkeep | ⟨hlisted, hoverflow⟩
  · exact absurd (hkeep.trans hs) ht
  · refine ⟨hlisted, fun hwrap hfx => ?_⟩
    exact absurd (hwrap.symm.trans (hoverflow hfx)) nofun

/-! ### The context id of a TICK (R275) -/

/-- Settles O48: the context id occurs only in the value that a completed tick records; the faults do not hold it. -/
theorem contextChangesOnlyDiagnostics : Obligations.ContextChangesOnlyDiagnostics := by
  intro s t c d h
  rcases execTick_next h with ⟨hl, rfl⟩ | ⟨hl, r, hr, rfl⟩ | ⟨hl, u, hu, rfl⟩
  · exact ⟨_, exec_tick_of_not_running d hl, rfl⟩
  · exact ⟨_, execTick_of_smTick_raised d hl hr, rfl⟩
  · exact ⟨_, execTick_of_smTick d hl hu, rfl⟩

end Sys2Proof.Machine
end
